-- ==== Sys2Proof/Word.lean ====
section
/-! DEFINITION. The words of the block and the names of its cells, pairs and data ports
(00_scope R9, R10, R11; 10_state R20, R31). -/

namespace Sys2Proof

/-- The value of an 8-bit cell, and of the data port P8 (R9, R10). -/
abbrev Byte := BitVec 8

/-- The value of SP, PC or a pair view, and of the data port P16 (R9, R10). -/
abbrev Word := BitVec 16

/-- A command word (30_encoding R72). -/
abbrev Cmd := BitVec 6

/-- The eight 8-bit cells (10_state R21 to R28). -/
inductive Reg8 where
  | a | b | c | d | e | f | h | l
  deriving DecidableEq, Repr

/-- The four pair views, which have no storage of their own (10_state R31, R32). -/
inductive Pair where
  | af | bc | de | hl
  deriving DecidableEq, Repr

/-- The two 16-bit cells (10_state R29, R30). -/
inductive Direct where
  | sp | pc
  deriving DecidableEq, Repr

/-- The two data ports: P8 (wdata8, rdata8) and P16 (wdata16, rdata16) (30_encoding R71). -/
inductive Port where
  | p8 | p16
  deriving DecidableEq, Repr

end Sys2Proof
end

