-- ==== Sys2Proof/Config.lean ====
section
/-! DEFINITION. The block's fixed parameters (00_scope R9, R10). None is left open by the spec, so
none is opaque, and the model has no free value. -/

namespace Sys2Proof.Config

/-- Width of the command word in bits (R10, 30_encoding R72). -/
def cmdBits : Nat := 6

/-- Reset value of every 8-bit cell (R9, 10_state R38). -/
def resetByte : Byte := 0x00#8

/-- Reset value of SP and PC (R9, 10_state R38, 70_reset_and_hazards R173). -/
def resetWord : Word := 0x0000#16

/-- The cause code of IllegalCommand, "the only code" (60_exceptions R151). -/
def illegalCommandCode : Nat := 1

end Sys2Proof.Config
end

