-- ==== Sys2Proof/Syntax.lean ====
section
/-! DEFINITION. The 28 commands (30_encoding R78, opcode_table.json). A command word carries no
operand (R77): the datum of a set command is on the data port its class uses, so no constructor has
an argument (DEDUCED, safe; log 10). -/

namespace Sys2Proof

/-- The commands, one constructor per row of the opcode table, in the table's order. -/
inductive Instr where
  | readA | setA | readB | setB | readC | setC | readD | setD
  | readE | setE | readF | setF | readH | setH | readL | setL
  | readAF | setAF | readBC | setBC | readDE | setDE | readHL | setHL
  | readSP | setSP | readPC | setPC
  deriving DecidableEq, Repr

end Sys2Proof
end

