-- ==== Sys2Proof/Syntax/Interface.lean ====
section
/-! DEFINITION. What crosses the block's interface in one step (30_encoding R70), what the decoder
answers (R81), and the listing lines programs are written in (R84). -/

namespace Sys2Proof

/-- The input signals of one step (30_encoding R70). -/
structure StepInput where
  /-- rst: reset request for this step. -/
  rst : Bool
  /-- cmd_valid: a command is presented this step. -/
  cmdValid : Bool
  /-- cmd: the command word. -/
  cmd : Cmd
  /-- wdata8: write data of the port P8. -/
  wdata8 : Byte
  /-- wdata16: write data of the port P16. -/
  wdata16 : Word
  deriving DecidableEq, Repr

/-- What the decoder makes of a command word: a legal command, or Illegal with the word that
IllegalCommand records (30_encoding R81, 60_exceptions R151). -/
inductive Decoded where
  | legal (i : Instr)
  | illegal (cmd : Cmd)
  deriving DecidableEq, Repr

/-- A line of a program listing; each line is one step (30_encoding R84). -/
inductive Line where
  /-- RESET: a step with rst = 1. -/
  | reset
  /-- IDLE: a step with cmd_valid = 0. -/
  | idle
  /-- READ_X, which takes no operand. -/
  | read (i : Instr)
  /-- SET_X x with an 8-bit datum. -/
  | set8 (i : Instr) (x : Byte)
  /-- SET_X v with a 16-bit datum. -/
  | set16 (i : Instr) (v : Word)
  deriving DecidableEq, Repr

end Sys2Proof
end

