-- ==== Sys2Proof/WellFormed.lean ====
section
/-! DEFINITION. Well-formedness. A term of Instr has no operand, so every one is well formed (log 10);
what can be ill formed is a command word (30_encoding R79) and a listing line (R84). -/

namespace Sys2Proof

/-- The port a command's write datum comes from; none for a read (30_encoding R77). -/
def Instr.datumPort : Instr → Option Port
  | .setA | .setB | .setC | .setD | .setE | .setF | .setH | .setL => some .p8
  | .setAF | .setBC | .setDE | .setHL | .setSP | .setPC => some .p16
  | .readA | .readB | .readC | .readD | .readE | .readF | .readH | .readL => none
  | .readAF | .readBC | .readDE | .readHL | .readSP | .readPC => none

/-- The port a command responds on; none for the 16-bit writes (D9). -/
def Instr.responsePort : Instr → Option Port
  | .readA | .readB | .readC | .readD | .readE | .readF | .readH | .readL => some .p8
  | .setA | .setB | .setC | .setD | .setE | .setF | .setH | .setL => some .p8
  | .readAF | .readBC | .readDE | .readHL | .readSP | .readPC => some .p16
  | .setAF | .setBC | .setDE | .setHL | .setSP | .setPC => none

/-- A command word is reserved when it is one of the 36 words that 30_encoding R79 lists. -/
def Cmd.reserved (cmd : Cmd) : Bool :=
  let n := cmd.toNat
  (0x30 ≤ n && n ≤ 0x3F) || (0x14 ≤ n && n ≤ 0x17) || (0x1C ≤ n && n ≤ 0x1F) ||
    (0x22 ≤ n && n ≤ 0x27) || (0x2A ≤ n && n ≤ 0x2F)

/-- A command word is well formed when it is not reserved. -/
def Cmd.wf (cmd : Cmd) : Bool := !Cmd.reserved cmd

/-- A listing line is well formed when its command takes the operand the line gives it
(30_encoding R84): none for a read, 8 bits for an 8-bit set, 16 bits for a pair, SP or PC set. -/
def Line.wf : Line → Bool
  | .reset | .idle => true
  | .read i => i.datumPort == none
  | .set8 i _ => i.datumPort == some .p8
  | .set16 i _ => i.datumPort == some .p16

end Sys2Proof
end

