-- ==== Sys2Proof/Decode.lean ====
section
/-! DEFINITION. The decoder, by the field rules (30_encoding R72 to R76, R81); the encoder, by the
opcode map (R78); the commands' names and the listing lines' signals (R84); the opcode table's
numbering of a word. -/

namespace Sys2Proof

/-! ### Fields -/

/-- CLASS, cmd[5:4] (R72). -/
def cmdClass (cmd : Cmd) : BitVec 2 := cmd.extractLsb' 4 2

/-- W, cmd[3]: true for a write (R72, R73). -/
def cmdWrite (cmd : Cmd) : Bool := cmd.getLsbD 3

/-- SEL, cmd[2:0] (R72). -/
def cmdSel (cmd : Cmd) : BitVec 3 := cmd.extractLsb' 0 3

/-- R8[s]: the cell a SEL code names in CLASS 00; all eight codes are legal (R74). -/
def reg8OfSel (s : BitVec 3) : Reg8 :=
  match s.toNat with
  | 0 => .a
  | 1 => .b
  | 2 => .c
  | 3 => .d
  | 4 => .e
  | 5 => .f
  | 6 => .h
  | _ => .l

/-- pair[s]: the pair a SEL code names in CLASS 01; codes 100 to 111 are reserved (R75). -/
def pairOfSel (s : BitVec 3) : Option Pair :=
  match s.toNat with
  | 0 => some .af
  | 1 => some .bc
  | 2 => some .de
  | 3 => some .hl
  | _ => none

/-- direct[s]: the cell a SEL code names in CLASS 10; codes 010 to 111 are reserved (R76). -/
def directOfSel (s : BitVec 3) : Option Direct :=
  match s.toNat with
  | 0 => some .sp
  | 1 => some .pc
  | _ => none

/-! ### The command of a cell or pair (R73) -/

/-- READ8 of a cell. -/
def Instr.read8 : Reg8 → Instr
  | .a => .readA | .b => .readB | .c => .readC | .d => .readD
  | .e => .readE | .f => .readF | .h => .readH | .l => .readL

/-- SET8 of a cell. -/
def Instr.set8 : Reg8 → Instr
  | .a => .setA | .b => .setB | .c => .setC | .d => .setD
  | .e => .setE | .f => .setF | .h => .setH | .l => .setL

/-- READ16 of a pair. -/
def Instr.read16 : Pair → Instr
  | .af => .readAF | .bc => .readBC | .de => .readDE | .hl => .readHL

/-- SET16 of a pair. -/
def Instr.set16 : Pair → Instr
  | .af => .setAF | .bc => .setBC | .de => .setDE | .hl => .setHL

/-- READ16 of SP or PC. -/
def Instr.readDirect : Direct → Instr
  | .sp => .readSP | .pc => .readPC

/-- SET16 of SP or PC. -/
def Instr.setDirect : Direct → Instr
  | .sp => .setSP | .pc => .setPC

/-! ### Decoder and encoder -/

/-- The decoder, total on all 64 words (R81): what is not a legal command is Illegal, with the word. -/
def decode (cmd : Cmd) : Decoded :=
  let w := cmdWrite cmd
  let s := cmdSel cmd
  if cmdClass cmd = 0b00#2 then
    .legal (if w then Instr.set8 (reg8OfSel s) else Instr.read8 (reg8OfSel s))
  else if cmdClass cmd = 0b01#2 then
    match pairOfSel s with
    | some p => .legal (if w then Instr.set16 p else Instr.read16 p)
    | none => .illegal cmd
  else if cmdClass cmd = 0b10#2 then
    match directOfSel s with
    | some d => .legal (if w then Instr.setDirect d else Instr.readDirect d)
    | none => .illegal cmd
  else .illegal cmd

/-- The encoder: the word the opcode map gives a command (R78). -/
def encode : Instr → Cmd
  | .readA => 0x00#6
  | .readB => 0x01#6
  | .readC => 0x02#6
  | .readD => 0x03#6
  | .readE => 0x04#6
  | .readF => 0x05#6
  | .readH => 0x06#6
  | .readL => 0x07#6
  | .setA => 0x08#6
  | .setB => 0x09#6
  | .setC => 0x0A#6
  | .setD => 0x0B#6
  | .setE => 0x0C#6
  | .setF => 0x0D#6
  | .setH => 0x0E#6
  | .setL => 0x0F#6
  | .readAF => 0x10#6
  | .readBC => 0x11#6
  | .readDE => 0x12#6
  | .readHL => 0x13#6
  | .setAF => 0x18#6
  | .setBC => 0x19#6
  | .setDE => 0x1A#6
  | .setHL => 0x1B#6
  | .readSP => 0x20#6
  | .readPC => 0x21#6
  | .setSP => 0x28#6
  | .setPC => 0x29#6

/-! ### The opcode table's numbering

The table gives each row 6 bits, asked about as one whole byte. The block's command input has six
lines, so a number with a bit set above bit 5 is no command word and is refused (DESIGN CHOICE, safe;
log 9). -/

/-- The command word an opcode-table word stands for; none where it is wider than the command input. -/
def tableCmd (nbits w : Nat) : Option Cmd :=
  let v := w % 2 ^ nbits
  if v < 2 ^ Config.cmdBits then some (BitVec.ofNat 6 v) else none

/-- The command the decoder reads from an opcode-table word. -/
def decodeTableWord (nbits w : Nat) : Option Instr :=
  match tableCmd nbits w with
  | none => none
  | some cmd =>
    match decode cmd with
    | .legal i => some i
    | .illegal _ => none

/-! ### Listings (R84) -/

/-- The mnemonic, the source's method name in capitals. -/
def Instr.mnemonic : Instr → String
  | .readA => "READ_A"
  | .setA => "SET_A"
  | .readB => "READ_B"
  | .setB => "SET_B"
  | .readC => "READ_C"
  | .setC => "SET_C"
  | .readD => "READ_D"
  | .setD => "SET_D"
  | .readE => "READ_E"
  | .setE => "SET_E"
  | .readF => "READ_F"
  | .setF => "SET_F"
  | .readH => "READ_H"
  | .setH => "SET_H"
  | .readL => "READ_L"
  | .setL => "SET_L"
  | .readAF => "READ_AF"
  | .setAF => "SET_AF"
  | .readBC => "READ_BC"
  | .setBC => "SET_BC"
  | .readDE => "READ_DE"
  | .setDE => "SET_DE"
  | .readHL => "READ_HL"
  | .setHL => "SET_HL"
  | .readSP => "READ_SP"
  | .setSP => "SET_SP"
  | .readPC => "READ_PC"
  | .setPC => "SET_PC"

/-- The signals of an idle step (30_encoding R82). The ignored inputs are driven with zeros
(DESIGN CHOICE, safe; log 12). -/
def StepInput.idle : StepInput :=
  { rst := false, cmdValid := false, cmd := 0#6, wdata8 := 0#8, wdata16 := 0#16 }

/-- The signals of a step that presents a command with both write-data inputs given. -/
def StepInput.command (i : Instr) (x : Byte) (v : Word) : StepInput :=
  { rst := false, cmdValid := true, cmd := encode i, wdata8 := x, wdata16 := v }

/-- The signals a listing line stands for (R84): the datum on the port the line names, and every
input the step ignores driven with zero (DESIGN CHOICE, safe; log 12). -/
def Line.toInput : Line → StepInput
  | .reset => { StepInput.idle with rst := true }
  | .idle => StepInput.idle
  | .read i => StepInput.command i 0#8 0#16
  | .set8 i x => StepInput.command i x 0#16
  | .set16 i v => StepInput.command i 0#8 v

end Sys2Proof
end

