-- ==== Sys2Proof/Machine/State.lean ====
section
/-! DEFINITION. The state of the block as plain data, its faults and refusals, and the state after
reset (10_state R20, R38; 00_scope R13; 60_exceptions R151, R152). The block has no memory
(20_memory R50), so State has none (log 11). -/

namespace Sys2Proof.Machine

/-- RF, the block's whole architectural state: ten cells, 96 bits (10_state R20; 00_scope R13).
No cell has a hard-wired bit (R21 to R30, R35). -/
structure RegFile where
  /-- The accumulator, high byte of AF (R21). -/
  a : Byte
  /-- High byte of BC (R22). -/
  b : Byte
  /-- Low byte of BC (R23). -/
  c : Byte
  /-- High byte of DE (R24). -/
  d : Byte
  /-- Low byte of DE (R25). -/
  e : Byte
  /-- The flags byte, all eight bits stored opaquely; low byte of AF (R26, R34). -/
  f : Byte
  /-- High byte of HL (R27). -/
  h : Byte
  /-- Low byte of HL (R28). -/
  l : Byte
  /-- The stack pointer (R29). -/
  sp : Word
  /-- The program counter; the block never advances it (R30). -/
  pc : Word
  deriving DecidableEq, Repr

/-- What a step responds (00_scope R13). A data output that is not valid has no value at all
(30_encoding R70; I1; log 8). -/
inductive Response where
  | none
  | val8 (v : Byte)
  | val16 (v : Word)
  deriving DecidableEq, Repr

/-- The block's faults. -/
inductive Fault where
  /-- IllegalCommand(cmd), raised by a step that samples a reserved word with cmd_valid = 1 and
  rst = 0 (60_exceptions R151). It is the RESULT of that step, recorded in State, and the machine
  goes on, since "The next step accepts commands as usual" (R152): no step ever answers
  Host.Outcome.fault with it (DEDUCED, log 1). Safe: nothing is proved of a faulted run that the
  spec does not say of it. -/
  | illegalCommand (cmd : Cmd)
  deriving DecidableEq, Repr

/-- Why the model would refuse a command. -/
inductive Refusal where
  /-- The command of this mnemonic has no meaning in the model: raised by exec's own arm alone. Every
  command has its meaning, so nothing raises it. Safe: the step stops. -/
  | notModelled (mnemonic : String)
  deriving DecidableEq, Repr

/-- The outcome of a step as the spec gives it, less the next RF, which State holds itself:
ok with a response, or a fault (00_scope R13). -/
inductive StepResult where
  | ok (r : Response)
  | fault (f : Fault)
  deriving DecidableEq, Repr

/-- The machine: RF, the interface of the step, and the sticky fault mark. -/
structure State where
  /-- RF, the ten cells (10_state R20). -/
  rf : RegFile
  /-- The input signals of the coming step (30_encoding R70; log 2). -/
  input : StepInput
  /-- The input signals of the steps after it, oldest first; after the last one the owner presents
  nothing, and every step is idle (DESIGN CHOICE, unsafe; log 2, log 3). -/
  pending : List StepInput
  /-- The result of the step just done, which the output signals show (00_scope R13; log 4). -/
  result : StepResult
  /-- The sticky fault mark outside RF, set by any IllegalCommand and never cleared
  (60_exceptions R152; log 5). -/
  faultMark : Bool
  deriving DecidableEq, Repr

/-- RF_reset, the all-zero state (10_state R38). -/
def RegFile.reset : RegFile :=
  { a := Config.resetByte, b := Config.resetByte, c := Config.resetByte, d := Config.resetByte,
    e := Config.resetByte, f := Config.resetByte, h := Config.resetByte, l := Config.resetByte,
    sp := Config.resetWord, pc := Config.resetWord }

/-- The machine right after reset (10_state R38; 70_reset_and_hazards R170, R171): every cell zero,
the reset step's own result "ok, none" (DEDUCED, log 4), no fault yet (DEDUCED, log 5), and nothing
presented by the owner (DESIGN CHOICE, log 6). -/
def State.reset : State :=
  { rf := RegFile.reset, input := StepInput.idle, pending := [], result := .ok .none,
    faultMark := false }

end Sys2Proof.Machine
end

