-- ==== Sys2Proof/Machine/Ops.lean ====
section
/-! DEFINITION. The named operations on the cells and on the step's result: reg[N] and reg[N] <- v
(00_scope R12), respond, raise IllegalCommand, the reset and idle steps, and the passage to the
owner's next step. -/

namespace Sys2Proof.Machine

/-- reg[N] of an 8-bit cell (00_scope R12). -/
def RegFile.get8 (rf : RegFile) : Reg8 → Byte
  | .a => rf.a
  | .b => rf.b
  | .c => rf.c
  | .d => rf.d
  | .e => rf.e
  | .f => rf.f
  | .h => rf.h
  | .l => rf.l

/-- reg[N] <- v of an 8-bit cell: that cell alone, every bit of it (00_scope R12, 10_state R35). -/
def RegFile.set8 (rf : RegFile) (r : Reg8) (v : Byte) : RegFile :=
  match r with
  | .a => { rf with a := v }
  | .b => { rf with b := v }
  | .c => { rf with c := v }
  | .d => { rf with d := v }
  | .e => { rf with e := v }
  | .f => { rf with f := v }
  | .h => { rf with h := v }
  | .l => { rf with l := v }

/-- reg[N] of SP or PC (00_scope R12). -/
def RegFile.getD (rf : RegFile) : Direct → Word
  | .sp => rf.sp
  | .pc => rf.pc

/-- reg[N] <- v of SP or PC: that cell alone (00_scope R12). -/
def RegFile.setD (rf : RegFile) (d : Direct) (v : Word) : RegFile :=
  match d with
  | .sp => { rf with sp := v }
  | .pc => { rf with pc := v }

/-- The state with another RF. -/
def State.withRf (s : State) (rf : RegFile) : State := { s with rf := rf }

/-- respond none, respond val8(v), respond val16(v): the step ends well with that response
(00_scope R12, R13). -/
def State.respond (s : State) (r : Response) : State := { s with result := .ok r }

/-- raise IllegalCommand(cmd), the block's one exception (60_exceptions R151, R152, R156): RF keeps
every cell, no response is given, the fault and its word are the step's result, and the fault mark
is set. Nothing is saved, no vector is taken and PC is not written (R156); so there is no return from
it either (R157). -/
def State.raiseIllegalCommand (s : State) (cmd : Cmd) : State :=
  { s with result := .fault (.illegalCommand cmd), faultMark := true }

/-- A reset step: every cell takes its reset value, no response, no fault (70_reset_and_hazards R170,
R172). The fault mark stays (60_exceptions R152). -/
def State.resetCells (s : State) : State := (s.withRf RegFile.reset).respond .none

/-- An idle step: no cell changes, no response, no fault (30_encoding R82). -/
def State.idleStep (s : State) : State := s.respond .none

/-- The owner's next step comes to the input signals; with none left the owner presents no command,
so the step is idle (log 2, log 3). -/
def State.advance (s : State) : State :=
  match s.pending with
  | [] => { s with input := StepInput.idle }
  | x :: rest => { s with input := x, pending := rest }

/-- The cause code of a fault (60_exceptions R151). -/
def Fault.code : Fault → Nat
  | .illegalCommand _ => Config.illegalCommandCode

end Sys2Proof.Machine
end

