-- ==== Sys2Proof/Machine/Operands.lean ====
section
/-! DEFINITION. Operands: the write datum of a set command (30_encoding R77) and the pair views with
their composition and decomposition (10_state R31, R32; 41_pair16_access R120, R121). -/

namespace Sys2Proof.Machine

/-- The datum of an 8-bit set command, exactly as presented on wdata8 (30_encoding R77). -/
def State.datum8 (s : State) : Byte := s.input.wdata8

/-- The datum of a 16-bit set command, exactly as presented on wdata16 (30_encoding R77). -/
def State.datum16 (s : State) : Word := s.input.wdata16

/-- compose(hi, lo): the shift and the or at 16-bit width (41_pair16_access R120). -/
def compose (hi lo : Byte) : Word := (hi.setWidth 16 <<< 8) ||| lo.setWidth 16

/-- The high byte of decompose(v): v >> 8 truncated to 8 bits (41_pair16_access R121). -/
def highByte (v : Word) : Byte := (v >>> 8).setWidth 8

/-- The low byte of decompose(v): v & 0xFF truncated to 8 bits (41_pair16_access R121). -/
def lowByte (v : Word) : Byte := (v &&& 0x00FF#16).setWidth 8

/-- decompose(v) = (high byte, low byte) (41_pair16_access R121). -/
def decompose (v : Word) : Byte × Byte := (highByte v, lowByte v)

/-- hi(P): the cell in bits 15:8 of a pair (10_state R31). -/
def hiCell : Pair → Reg8
  | .af => .a
  | .bc => .b
  | .de => .d
  | .hl => .h

/-- lo(P): the cell in bits 7:0 of a pair (10_state R31). -/
def loCell : Pair → Reg8
  | .af => .f
  | .bc => .c
  | .de => .e
  | .hl => .l

/-- The value of a pair, composed from its two cells as they stand (10_state R32). -/
def RegFile.getPair (rf : RegFile) (p : Pair) : Word :=
  compose (rf.get8 (hiCell p)) (rf.get8 (loCell p))

/-- A pair write: both cells take their byte of the datum (41_pair16_access R121, R125). -/
def RegFile.setPair (rf : RegFile) (p : Pair) (v : Word) : RegFile :=
  (rf.set8 (hiCell p) (decompose v).1).set8 (loCell p) (decompose v).2

end Sys2Proof.Machine
end

