-- ==== Sys2Proof/Machine/Direct16Access.lean ====
section
/-! DEFINITION. 16-bit direct cell access, SP and PC (42_direct16_access R140 to R146). -/

namespace Sys2Proof.Machine

/-- READ16 of SP or PC: respond val16(reg[N]); a read of PC does not advance it (R140, R142, R145). -/
def readDirect (d : Direct) (s : State) : Host.Outcome State Fault Refusal :=
  .next (s.respond (.val16 (s.rf.getD d)))

/-- SET16 of SP or PC: reg[N] <- wdata16, and no response (R141, R143; D9). -/
def setDirect (d : Direct) (s : State) : Host.Outcome State Fault Refusal :=
  .next ((s.withRf (s.rf.setD d s.datum16)).respond .none)

/-- READ_SP (R140). -/
def execReadSP (s : State) : Host.Outcome State Fault Refusal := readDirect .sp s

/-- SET_SP (R141). -/
def execSetSP (s : State) : Host.Outcome State Fault Refusal := setDirect .sp s

/-- READ_PC (R142). -/
def execReadPC (s : State) : Host.Outcome State Fault Refusal := readDirect .pc s

/-- SET_PC (R143). -/
def execSetPC (s : State) : Host.Outcome State Fault Refusal := setDirect .pc s

end Sys2Proof.Machine
end

