-- ==== Sys2Proof/Machine/Pair16Access.lean ====
section
/-! DEFINITION. 16-bit pair access, READ16 and SET16 (41_pair16_access R120 to R133). -/

namespace Sys2Proof.Machine

/-- READ16 of a pair: respond val16(compose(reg[hi], reg[lo])), nothing else (R124). -/
def readPair (p : Pair) (s : State) : Host.Outcome State Fault Refusal :=
  .next (s.respond (.val16 (s.rf.getPair p)))

/-- SET16 of a pair: both cells in the same step, and no response (R125; 20_memory R56; D9). -/
def setPair (p : Pair) (s : State) : Host.Outcome State Fault Refusal :=
  .next ((s.withRf (s.rf.setPair p s.datum16)).respond .none)

/-- READ_AF (R124). -/
def execReadAF (s : State) : Host.Outcome State Fault Refusal := readPair .af s

/-- SET_AF (R125). F takes its byte whole, as data (R26, C5). -/
def execSetAF (s : State) : Host.Outcome State Fault Refusal := setPair .af s

/-- READ_BC (R126). -/
def execReadBC (s : State) : Host.Outcome State Fault Refusal := readPair .bc s

/-- SET_BC (R127). -/
def execSetBC (s : State) : Host.Outcome State Fault Refusal := setPair .bc s

/-- READ_DE (R128). -/
def execReadDE (s : State) : Host.Outcome State Fault Refusal := readPair .de s

/-- SET_DE (R129). -/
def execSetDE (s : State) : Host.Outcome State Fault Refusal := setPair .de s

/-- READ_HL (R130). -/
def execReadHL (s : State) : Host.Outcome State Fault Refusal := readPair .hl s

/-- SET_HL (R131). -/
def execSetHL (s : State) : Host.Outcome State Fault Refusal := setPair .hl s

end Sys2Proof.Machine
end

