-- ==== Sys2Proof/Machine/Reg8Access.lean ====
section
/-! DEFINITION. 8-bit cell access, READ8 and SET8 (40_reg8_access R100 to R119). -/

namespace Sys2Proof.Machine

/-- READ8 of a cell: respond val8(reg[X]), nothing else (R100). -/
def readCell8 (r : Reg8) (s : State) : Host.Outcome State Fault Refusal :=
  .next (s.respond (.val8 (s.rf.get8 r)))

/-- SET8 of a cell: reg[X] <- wdata8, then respond with X's NEW value (R100, R118; C1). -/
def setCell8 (r : Reg8) (s : State) : Host.Outcome State Fault Refusal :=
  let t := s.withRf (s.rf.set8 r s.datum8)
  .next (t.respond (.val8 (t.rf.get8 r)))

/-- READ_A (R101). -/
def execReadA (s : State) : Host.Outcome State Fault Refusal := readCell8 .a s

/-- SET_A (R102). -/
def execSetA (s : State) : Host.Outcome State Fault Refusal := setCell8 .a s

/-- READ_B (R103). -/
def execReadB (s : State) : Host.Outcome State Fault Refusal := readCell8 .b s

/-- SET_B (R104). -/
def execSetB (s : State) : Host.Outcome State Fault Refusal := setCell8 .b s

/-- READ_C (R105). -/
def execReadC (s : State) : Host.Outcome State Fault Refusal := readCell8 .c s

/-- SET_C (R106). -/
def execSetC (s : State) : Host.Outcome State Fault Refusal := setCell8 .c s

/-- READ_D (R107). -/
def execReadD (s : State) : Host.Outcome State Fault Refusal := readCell8 .d s

/-- SET_D (R108). -/
def execSetD (s : State) : Host.Outcome State Fault Refusal := setCell8 .d s

/-- READ_E (R109). -/
def execReadE (s : State) : Host.Outcome State Fault Refusal := readCell8 .e s

/-- SET_E (R110). -/
def execSetE (s : State) : Host.Outcome State Fault Refusal := setCell8 .e s

/-- READ_F (R111). -/
def execReadF (s : State) : Host.Outcome State Fault Refusal := readCell8 .f s

/-- SET_F (R112). All eight bits are kept (R26, C5). -/
def execSetF (s : State) : Host.Outcome State Fault Refusal := setCell8 .f s

/-- READ_H (R113). -/
def execReadH (s : State) : Host.Outcome State Fault Refusal := readCell8 .h s

/-- SET_H (R114). -/
def execSetH (s : State) : Host.Outcome State Fault Refusal := setCell8 .h s

/-- READ_L (R115). -/
def execReadL (s : State) : Host.Outcome State Fault Refusal := readCell8 .l s

/-- SET_L (R116). The response is L's value and never F's (R118, C1). -/
def execSetL (s : State) : Host.Outcome State Fault Refusal := setCell8 .l s

end Sys2Proof.Machine
end

