-- ==== Sys2Proof/Machine/Dispatch.lean ====
section
/-! DEFINITION. exec: one arm per command, each one call of the command's own meaning. -/

namespace Sys2Proof.Machine

/-- exec(k, RF, wdata8, wdata16) of 30_encoding R83: the rule of each command. The write data are the
state's input signals. -/
def exec (i : Instr) (s : State) : Host.Outcome State Fault Refusal :=
  match i with
  | .readA => Sys2Proof.Machine.execReadA s
  | .setA => Sys2Proof.Machine.execSetA s
  | .readB => Sys2Proof.Machine.execReadB s
  | .setB => Sys2Proof.Machine.execSetB s
  | .readC => Sys2Proof.Machine.execReadC s
  | .setC => Sys2Proof.Machine.execSetC s
  | .readD => Sys2Proof.Machine.execReadD s
  | .setD => Sys2Proof.Machine.execSetD s
  | .readE => Sys2Proof.Machine.execReadE s
  | .setE => Sys2Proof.Machine.execSetE s
  | .readF => Sys2Proof.Machine.execReadF s
  | .setF => Sys2Proof.Machine.execSetF s
  | .readH => Sys2Proof.Machine.execReadH s
  | .setH => Sys2Proof.Machine.execSetH s
  | .readL => Sys2Proof.Machine.execReadL s
  | .setL => Sys2Proof.Machine.execSetL s
  | .readAF => Sys2Proof.Machine.execReadAF s
  | .setAF => Sys2Proof.Machine.execSetAF s
  | .readBC => Sys2Proof.Machine.execReadBC s
  | .setBC => Sys2Proof.Machine.execSetBC s
  | .readDE => Sys2Proof.Machine.execReadDE s
  | .setDE => Sys2Proof.Machine.execSetDE s
  | .readHL => Sys2Proof.Machine.execReadHL s
  | .setHL => Sys2Proof.Machine.execSetHL s
  | .readSP => Sys2Proof.Machine.execReadSP s
  | .setSP => Sys2Proof.Machine.execSetSP s
  | .readPC => Sys2Proof.Machine.execReadPC s
  | .setPC => Sys2Proof.Machine.execSetPC s

end Sys2Proof.Machine
end

