-- ==== Sys2Proof/Machine/Cycle.lean ====
section
/-! DEFINITION. The step function of 30_encoding R83, and the placing of a command at the input
signals. -/

namespace Sys2Proof.Machine

/-- One step (30_encoding R83; priority 60_exceptions R155): a reset request, else an idle step, else
the command presented: IllegalCommand for a reserved word, its own effect for a legal one. Then the
owner's next step comes to the input signals. The block fetches nothing (20_memory R50, R54). -/
def cycle (s : State) : Host.Outcome State Fault Refusal :=
  if s.input.rst then .next s.resetCells.advance
  else if !s.input.cmdValid then .next s.idleStep.advance
  else
    match decode s.input.cmd with
    | .illegal cmd => .next (s.raiseIllegalCommand cmd).advance
    | .legal i =>
      match exec i s with
      | .next t => .next t.advance
      | .fault r => .fault r
      | .refused r => .refused r

/-- Presents a command word for the coming step: rst = 0, cmd_valid = 1 and the word on cmd; the
write-data inputs stay as they are (log 7). -/
def State.present (s : State) (cmd : Cmd) : State :=
  { s with input := { s.input with rst := false, cmdValid := true, cmd := cmd } }

/-- Presents the command of an opcode-table word. A number too wide for the command input is no
command, and nothing is placed (log 9). -/
def State.presentTableWord (s : State) (nbits w : Nat) : State :=
  match tableCmd nbits w with
  | none => s
  | some cmd => s.present cmd

end Sys2Proof.Machine
end

