-- ==== Sys2Proof/Machine/Step.lean ====
section
/-! DEFINITION. The machine's step and the placing of a command, both calls of Machine/Cycle.lean. -/

namespace Sys2Proof.Machine

/-- One step of the block (30_encoding R83). -/
def step (s : State) : Host.Outcome State Fault Refusal := cycle s

/-- The state whose coming step runs the command of an opcode-table word (log 7). -/
def State.withFetchWord (s : State) (nbits w : Nat) : State := s.presentTableWord nbits w

end Sys2Proof.Machine
end

