-- ==== Sys2Proof/Machine/Flags.lean ====
section
/-! DEFINITION. Flags. The block has no condition codes and computes no flag: F is a plain storage
byte whose eight bits mean nothing to it (00_scope R7, 10_state R26, R34), read and written by the
commands of the 8-bit and pair families like any other byte. -/

namespace Sys2Proof.Machine

/-- The flags byte, raw (10_state R34: "expose only the raw byte"). -/
def flagsByte (s : State) : Byte := s.rf.get8 .f

end Sys2Proof.Machine
end

