-- ==== Sys2Proof/Machine/Ports.lean ====
section
/-! DEFINITION. The output signals of the step just done, as functions of its result (30_encoding
R70). A data output, and fault_cmd, is an Option: none is "no defined value" (I1, log 8). -/

namespace Sys2Proof.Machine

/-- rdata8 where rvalid8 = 1, no value otherwise. -/
def State.rdata8 (s : State) : Option Byte :=
  match s.result with
  | .ok (.val8 v) => some v
  | .ok .none | .ok (.val16 _) | .fault _ => none

/-- rdata16 where rvalid16 = 1, no value otherwise. -/
def State.rdata16 (s : State) : Option Word :=
  match s.result with
  | .ok (.val16 v) => some v
  | .ok .none | .ok (.val8 _) | .fault _ => none

/-- rvalid8. -/
def State.rvalid8 (s : State) : Bool := s.rdata8.isSome

/-- rvalid16. -/
def State.rvalid16 (s : State) : Bool := s.rdata16.isSome

/-- fault_cmd where fault = 1, no value otherwise. -/
def State.faultCmd (s : State) : Option Cmd :=
  match s.result with
  | .fault (.illegalCommand cmd) => some cmd
  | .ok _ => none

/-- fault: this step's command word was reserved. -/
def State.faultOut (s : State) : Bool := s.faultCmd.isSome

end Sys2Proof.Machine
end

