-- ==== Sys2Proof/Safety.lean ====
section
/-! DEFINITION. What the claims are stated in: runs, the steps a run samples, who writes which cell
(10_state R37), the latest write to a cell (20_memory R59), the inputs a step ignores (30_encoding
R77), good runs (60_exceptions R151, R152) and the invariants. None of it is used by the machine. -/

namespace Sys2Proof.Machine

/-- n steps of the block, stopping where a step stops (Laws/Run.lean: it is the host's own run). -/
def run : Nat → State → Host.Outcome State Fault Refusal
  | 0, s => .next s
  | n + 1, s =>
    match step s with
    | .next t => run n t
    | .fault r => .fault r
    | .refused r => .refused r

/-- The steps the first n steps of a run sample, oldest first. Past the owner's last step the block
samples idle steps, which are not listed. -/
def sampled (n : Nat) (s : State) : List StepInput := (s.input :: s.pending).take n

end Sys2Proof.Machine

namespace Sys2Proof

/-! ### Who writes which cell -/

/-- "Written by", the commands that 10_state R37's table lists for an 8-bit cell. -/
def writers8 : Reg8 → List Instr
  | .a => [.setA, .setAF]
  | .b => [.setB, .setBC]
  | .c => [.setC, .setBC]
  | .d => [.setD, .setDE]
  | .e => [.setE, .setDE]
  | .f => [.setF, .setAF]
  | .h => [.setH, .setHL]
  | .l => [.setL, .setHL]

/-- "Written by", for SP and PC (10_state R37). -/
def writersD : Direct → List Instr
  | .sp => [.setSP]
  | .pc => [.setPC]

/-- The legal command a step runs: none on a reset step, an idle step or a reserved word. -/
def StepInput.legalCommand (x : StepInput) : Option Instr :=
  if x.rst || !x.cmdValid then none
  else match decode x.cmd with
    | .legal i => some i
    | .illegal _ => none

/-- The step presents a reserved word and no reset (60_exceptions R151). -/
def StepInput.isIllegal (x : StepInput) : Bool := !x.rst && x.cmdValid && Cmd.reserved x.cmd

/-- The step writes the 8-bit cell: a reset, or a command that R37 lists. -/
def StepInput.writes8 (x : StepInput) (r : Reg8) : Bool :=
  x.rst || (x.legalCommand).any fun i => (writers8 r).contains i

/-- The step writes SP or PC: a reset, or a command that R37 lists. -/
def StepInput.writesD (x : StepInput) (d : Direct) : Bool :=
  x.rst || (x.legalCommand).any fun i => (writersD d).contains i

/-! ### The latest write (20_memory R59) -/

/-- The byte a step leaves in an 8-bit cell, if it writes the cell: 0x00 on a reset step, wdata8 on
the cell's own set command, its half of wdata16 on its pair's set command. -/
def StepInput.leaves8 (x : StepInput) (r : Reg8) : Option Byte :=
  if x.rst then some 0x00#8
  else match r, x.legalCommand with
    | .a, some .setA | .b, some .setB | .c, some .setC | .d, some .setD => some x.wdata8
    | .e, some .setE | .f, some .setF | .h, some .setH | .l, some .setL => some x.wdata8
    | .a, some .setAF | .b, some .setBC | .d, some .setDE | .h, some .setHL =>
        some (x.wdata16.extractLsb' 8 8)
    | .f, some .setAF | .c, some .setBC | .e, some .setDE | .l, some .setHL =>
        some (x.wdata16.extractLsb' 0 8)
    | _, _ => none

/-- The word a step leaves in SP or PC, if it writes the cell. -/
def StepInput.leavesD (x : StepInput) (d : Direct) : Option Word :=
  if x.rst then some 0x0000#16
  else match d, x.legalCommand with
    | .sp, some .setSP | .pc, some .setPC => some x.wdata16
    | _, _ => none

/-- What the latest of the steps that wrote a cell left in it, or v where none of them wrote it.
The steps are listed NEWEST first. -/
def latest {α : Type} (leaves : StepInput → Option α) (v : α) : List StepInput → α
  | [] => v
  | x :: older => (leaves x).getD (latest leaves v older)

/-! ### Ignored inputs -/

/-- The step with every input that 30_encoding R77, R82 and 70_reset_and_hazards R170 say it ignores
set to zero: all but rst on a reset step, all but rst and cmd_valid on an idle step, the write-data
inputs on a read or a reserved word, and the other port's on a set command. -/
def StepInput.visible (x : StepInput) : StepInput :=
  if x.rst then { StepInput.idle with rst := true }
  else if !x.cmdValid then StepInput.idle
  else match decode x.cmd with
    | .illegal _ => { x with wdata8 := 0#8, wdata16 := 0#16 }
    | .legal i =>
      match i.datumPort with
      | none => { x with wdata8 := 0#8, wdata16 := 0#16 }
      | some .p8 => { x with wdata16 := 0#16 }
      | some .p16 => { x with wdata8 := 0#8 }

end Sys2Proof

namespace Sys2Proof.Machine

/-- The state whose owner presents the same steps with every ignored input zero. -/
def State.visible (s : State) : State :=
  { s with input := s.input.visible, pending := s.pending.map StepInput.visible }

/-! ### Good runs and the invariants -/

/-- No fault has been recorded: "a run that reaches it is not a good run" (60_exceptions R151, R152). -/
def State.good (s : State) : Bool := !s.faultMark

/-- What every step leaves: a fault at the output is recorded in the sticky mark, and its word is one of
the reserved words (60_exceptions R151, R152). -/
def State.Inv (s : State) : Prop :=
  ∀ cmd, s.result = .fault (.illegalCommand cmd) → s.faultMark = true ∧ Cmd.reserved cmd = true

/-- The invariant of a good run: no fault is recorded, and no step the owner is to present holds a
reserved word (60_exceptions R151). -/
def State.Clean (s : State) : Prop :=
  s.faultMark = false ∧ ∀ x ∈ s.input :: s.pending, x.isIllegal = false

/-- The port that a result answers on: none where no response is given. -/
def StepResult.port : StepResult → Option Port
  | .ok (.val8 _) => some .p8
  | .ok (.val16 _) => some .p16
  | .ok .none => none
  | .fault _ => none

end Sys2Proof.Machine
end

