-- ==== Sys2Proof/Certificates/Slice0/Obligations.lean ====
section
/-! DEFINITION. The statements for the provers, written from the numbered rules of spec/. Each cell and
each half of a word is written out in the rule's own terms (s.rf.a, v[15:8] as extractLsb' 8 8), not
through the model's own selectors, wherever a rule names one cell or one half. -/

namespace Sys2Proof.Claims

open Sys2Proof.Machine

/-- v[15:8] (00_scope R11). -/
def upper (v : Word) : Byte := v.extractLsb' 8 8

/-- v[7:0] (00_scope R11). -/
def lower (v : Word) : Byte := v.extractLsb' 0 8

/-- hi ++ lo: hi in bits 15:8, lo in bits 7:0 (00_scope R11). -/
def cat (hi lo : Byte) : Word := hi ++ lo

/-- The shape of the READ8 rules R101 to R115: the word; for every state the command answers the cell on
P8 and changes nothing else; what it answers after a reset step, after the cell's own set command
and after its pair's set command; and a second read changes nothing and answers the same. -/
def ReadsCell8 (word : Cmd) (rd set setPair : Instr) (cell : RegFile → Byte) (half : Word → Byte) :
    Prop :=
  decode word = .legal rd ∧ encode rd = word ∧
  (∀ s, exec rd s = .next { s with result := .ok (.val8 (cell s.rf)) }) ∧
  (∀ s t, s.input.rst = true → step s = .next t →
    exec rd t = .next { t with result := .ok (.val8 0x00#8) }) ∧
  (∀ s, ∃ t, exec set s = .next t ∧
    exec rd t = .next { t with result := .ok (.val8 s.input.wdata8) }) ∧
  (∀ s, ∃ t, exec setPair s = .next t ∧
    exec rd t = .next { t with result := .ok (.val8 (half s.input.wdata16)) }) ∧
  (∀ s, ∃ t, exec rd s = .next t ∧ exec rd t = .next t)

/-- The shape of the SET8 rules R102 to R116: the word; for every state the command stores wdata8 in
the cell, answers it on P8 and changes nothing else; writing the value the cell holds leaves RF as
it was; the cell's half of the pair becomes the datum and the pair's other half keeps its value. -/
def SetsCell8 (word : Cmd) (set : Instr) (cell : RegFile → Byte) (put : RegFile → Byte → RegFile)
    (pair : Pair) (half other : Word → Byte) : Prop :=
  decode word = .legal set ∧ encode set = word ∧
  (∀ s, exec set s = .next { s with
    rf := put s.rf s.input.wdata8, result := .ok (.val8 s.input.wdata8) }) ∧
  (∀ s, s.input.wdata8 = cell s.rf →
    exec set s = .next { s with result := .ok (.val8 (cell s.rf)) }) ∧
  (∀ s, ∃ t, exec set s = .next t ∧ half (t.rf.getPair pair) = s.input.wdata8 ∧
    other (t.rf.getPair pair) = other (s.rf.getPair pair))

/-- The shape of the pair READ16 rules R124 to R130: the word; for every state the command answers
hi ++ lo on P16 and changes nothing else; after a reset step it answers 0x0000; with the high cell
0x00 the answer is below 0x0100; with both cells 0xFF it is 0xFFFF; after the pair's set command it
answers the datum. -/
def ReadsPair (word : Cmd) (rd set : Instr) (hi lo : RegFile → Byte) : Prop :=
  decode word = .legal rd ∧ encode rd = word ∧
  (∀ s, exec rd s = .next { s with result := .ok (.val16 (cat (hi s.rf) (lo s.rf))) }) ∧
  (∀ s t, s.input.rst = true → step s = .next t →
    exec rd t = .next { t with result := .ok (.val16 0x0000#16) }) ∧
  (∀ s, hi s.rf = 0x00#8 → ∃ v, exec rd s = .next { s with result := .ok (.val16 v) } ∧
    v < 0x0100#16) ∧
  (∀ s, hi s.rf = 0xFF#8 → lo s.rf = 0xFF#8 →
    exec rd s = .next { s with result := .ok (.val16 0xFFFF#16) }) ∧
  (∀ s, ∃ t, exec set s = .next t ∧
    exec rd t = .next { t with result := .ok (.val16 s.input.wdata16) })

/-- The shape of the pair SET16 rules R125 to R131: the word; for every state the command stores
v[15:8] in the high cell and v[7:0] in the low one in the one step, answers nothing and changes
nothing else; writing the value the pair holds leaves RF as it was. -/
def SetsPair (word : Cmd) (set : Instr) (hi lo : RegFile → Byte)
    (put : RegFile → Byte → Byte → RegFile) : Prop :=
  decode word = .legal set ∧ encode set = word ∧
  (∀ s, exec set s = .next { s with
    rf := put s.rf (upper s.input.wdata16) (lower s.input.wdata16), result := .ok .none }) ∧
  (∀ s, s.input.wdata16 = cat (hi s.rf) (lo s.rf) →
    exec set s = .next { s with result := .ok .none })

/-- The shape of the direct READ16 rules R140 and R142: the word; for every state the command answers
the cell on P16 and changes nothing else (a read of PC does not advance it); after a reset step it
answers 0x0000; a second read answers the same; after the cell's set command it answers the datum; no
8-bit write changes the answer. -/
def ReadsDirect (word : Cmd) (rd set : Instr) (cell : RegFile → Word) : Prop :=
  decode word = .legal rd ∧ encode rd = word ∧
  (∀ s, exec rd s = .next { s with result := .ok (.val16 (cell s.rf)) }) ∧
  (∀ s t, s.input.rst = true → step s = .next t →
    exec rd t = .next { t with result := .ok (.val16 0x0000#16) }) ∧
  (∀ s, ∃ t, exec rd s = .next t ∧ exec rd t = .next t) ∧
  (∀ s, ∃ t, exec set s = .next t ∧
    exec rd t = .next { t with result := .ok (.val16 s.input.wdata16) }) ∧
  (∀ r s, ∃ t, exec (Instr.set8 r) s = .next t ∧
    exec rd t = .next { t with result := .ok (.val16 (cell s.rf)) })

/-- The shape of the direct SET16 rules R141 and R143: the word; for every state and every datum the
command stores wdata16 whole, answers nothing and changes nothing else; writing the value the cell
holds leaves RF as it was. -/
def SetsDirect (word : Cmd) (set : Instr) (cell : RegFile → Word)
    (put : RegFile → Word → RegFile) : Prop :=
  decode word = .legal set ∧ encode set = word ∧
  (∀ s, exec set s = .next { s with rf := put s.rf s.input.wdata16, result := .ok .none }) ∧
  (∀ s, s.input.wdata16 = cell s.rf → exec set s = .next { s with result := .ok .none })

/-- R8 of 30_encoding R74. -/
def r8List : List Reg8 := [.a, .b, .c, .d, .e, .f, .h, .l]

/-- The pairs of 30_encoding R75. -/
def pairList : List Pair := [.af, .bc, .de, .hl]

/-- The direct cells of 30_encoding R76. -/
def directList : List Direct := [.sp, .pc]

end Sys2Proof.Claims

open Sys2Proof Sys2Proof.Machine Sys2Proof.Claims

/-! ### Encoding -/

/-- 30_encoding R78, R81: the decoder gives every command back from the word the opcode map gives it,
and a word decodes to a command only where it is the map's word for it. -/
def Obligations.DecodeAndEncodeAgree : Prop :=
  (∀ i : Instr, decode (encode i) = .legal i) ∧
  ∀ (cmd : Cmd) (i : Instr), decode cmd = .legal i → encode i = cmd

/-- 30_encoding R74, R75, R76, R81: the decoder read off the fields CLASS, W and SEL. -/
def Obligations.DecoderFollowsTheFields : Prop :=
  ∀ cmd : Cmd,
    let c := cmd.extractLsb' 4 2
    let w := cmd.getLsbD 3
    let s := (cmd.extractLsb' 0 3).toNat
    (c = 0b00#2 → ∃ r, r8List[s]? = some r ∧
      decode cmd = .legal (if w then Instr.set8 r else Instr.read8 r)) ∧
    (c = 0b01#2 → ∀ p, pairList[s]? = some p →
      decode cmd = .legal (if w then Instr.set16 p else Instr.read16 p)) ∧
    (c = 0b10#2 → ∀ d, directList[s]? = some d →
      decode cmd = .legal (if w then Instr.setDirect d else Instr.readDirect d)) ∧
    (c = 0b01#2 → 4 ≤ s → decode cmd = .illegal cmd) ∧
    (c = 0b10#2 → 2 ≤ s → decode cmd = .illegal cmd) ∧
    (c = 0b11#2 → decode cmd = .illegal cmd)

/-- 30_encoding R78: words written out bit by bit, one or two of each family. -/
def Obligations.SampleWordsDecode : Prop :=
  decode 0b000000#6 = .legal .readA ∧ decode 0b000111#6 = .legal .readL ∧
  decode 0b001101#6 = .legal .setF ∧ decode 0b010011#6 = .legal .readHL ∧
  decode 0b011000#6 = .legal .setAF ∧ decode 0b100001#6 = .legal .readPC ∧
  decode 0b101000#6 = .legal .setSP ∧ decode 0b010100#6 = .illegal 0x14#6 ∧
  decode 0b111111#6 = .illegal 0x3F#6

/-- 30_encoding R79: the words that decode to Illegal are the 36 the rule lists, and no other. -/
def Obligations.ExactlyTheReservedWordsAreIllegal : Prop :=
  (∀ cmd : Cmd, decode cmd = .illegal cmd ↔
    (0x30 ≤ cmd.toNat ∧ cmd.toNat ≤ 0x3F) ∨ (0x14 ≤ cmd.toNat ∧ cmd.toNat ≤ 0x17) ∨
    (0x1C ≤ cmd.toNat ∧ cmd.toNat ≤ 0x1F) ∨ (0x22 ≤ cmd.toNat ∧ cmd.toNat ≤ 0x27) ∨
    (0x2A ≤ cmd.toNat ∧ cmd.toNat ≤ 0x2F)) ∧
  ((List.range 64).filter fun n => Cmd.reserved (BitVec.ofNat 6 n)).length = 36

/-- 30_encoding R84: a well-formed listing line stands for the signals of its step. -/
def Obligations.ListingLineStandsForItsStep : Prop :=
  Line.reset.toInput.rst = true ∧
  (Line.idle.toInput.rst = false ∧ Line.idle.toInput.cmdValid = false) ∧
  (∀ i, (Line.read i).wf = true →
    (Line.read i).toInput.legalCommand = some i ∧ i.datumPort = none) ∧
  (∀ i x, (Line.set8 i x).wf = true →
    (Line.set8 i x).toInput.legalCommand = some i ∧ i.datumPort = some .p8 ∧
      (Line.set8 i x).toInput.wdata8 = x) ∧
  (∀ i v, (Line.set16 i v).wf = true →
    (Line.set16 i v).toInput.legalCommand = some i ∧ i.datumPort = some .p16 ∧
      (Line.set16 i v).toInput.wdata16 = v)

/-! ### The step -/

/-- 30_encoding R83: a step that presents the word of a legal command, with no reset, is exec of that
command, after which the owner's next step stands at the input (an idle step where none is left: the
model's choice, log 3). -/
def Obligations.StepRunsTheDecodedCommand : Prop :=
  ∀ (s : State) (i : Instr), s.input.rst = false → s.input.cmdValid = true →
    decode s.input.cmd = .legal i →
    ∃ t u, exec i s = .next t ∧ step s = .next u ∧
      u.rf = t.rf ∧ u.result = t.result ∧ u.faultMark = t.faultMark ∧
      u.input = s.pending.headD StepInput.idle ∧ u.pending = s.pending.tail

/-- 70_reset_and_hazards R170, R172: a step with rst = 1, whatever the state and whatever else is
presented, sets every cell to zero, answers nothing and raises no fault; every pair view then reads
0x0000. The fault mark stays (60_exceptions R152). -/
def Obligations.ResetStepZeroesEveryCell : Prop :=
  ∀ s : State, s.input.rst = true → ∃ t, step s = .next t ∧
    t.rf.a = 0x00#8 ∧ t.rf.b = 0x00#8 ∧ t.rf.c = 0x00#8 ∧ t.rf.d = 0x00#8 ∧
    t.rf.e = 0x00#8 ∧ t.rf.f = 0x00#8 ∧ t.rf.h = 0x00#8 ∧ t.rf.l = 0x00#8 ∧
    t.rf.sp = 0x0000#16 ∧ t.rf.pc = 0x0000#16 ∧
    (∀ p, t.rf.getPair p = 0x0000#16) ∧
    t.result = .ok .none ∧ t.faultMark = s.faultMark

/-- 10_state R38: the state after reset has every cell zero, so every pair view reads 0x0000. -/
def Obligations.ResetStateIsAllZero : Prop :=
  State.reset.rf.a = 0x00#8 ∧ State.reset.rf.b = 0x00#8 ∧ State.reset.rf.c = 0x00#8 ∧
  State.reset.rf.d = 0x00#8 ∧ State.reset.rf.e = 0x00#8 ∧ State.reset.rf.f = 0x00#8 ∧
  State.reset.rf.h = 0x00#8 ∧ State.reset.rf.l = 0x00#8 ∧ State.reset.rf.sp = 0x0000#16 ∧
  State.reset.rf.pc = 0x0000#16 ∧ (∀ p, State.reset.rf.getPair p = 0x0000#16) ∧
  Sys2Proof.core.reset = State.reset

/-- 30_encoding R82: through any number of idle steps the owner lists, whatever the ignored inputs hold,
no cell changes, nothing is answered and no fault is raised. -/
def Obligations.IdleStepsChangeNothing : Prop :=
  ∀ (n : Nat) (s : State), n ≤ s.pending.length + 1 →
    (∀ x ∈ sampled n s, x.rst = false ∧ x.cmdValid = false) →
    ∃ t, run n s = .next t ∧ t.rf = s.rf ∧ t.faultMark = s.faultMark ∧
      (0 < n → t.result = .ok .none)

/-- 60_exceptions R151, R156: a reserved word, presented with no reset, changes no cell (PC neither),
answers nothing, raises IllegalCommand with the word (code 1) and sets the fault mark, so that the run is
no good run. That the step answers a next state with the fault as its result, and not a stop, is how the
model reads R152 (log 1). -/
def Obligations.ReservedWordRaisesIllegalCommand : Prop :=
  ∀ s : State, s.input.rst = false → s.input.cmdValid = true → Cmd.reserved s.input.cmd = true →
    ∃ t, step s = .next t ∧ t.rf = s.rf ∧
      t.result = .fault (.illegalCommand s.input.cmd) ∧
      (Fault.illegalCommand s.input.cmd).code = 1 ∧
      t.rvalid8 = false ∧ t.rvalid16 = false ∧ t.faultOut = true ∧
      t.faultCmd = some s.input.cmd ∧ t.faultMark = true ∧ t.good = false

/-- 60_exceptions R152, R157: after a faulting step the next step goes as if that step had not been
presented, but that the fault mark stays set; a second fault is an output of its own. That there is a
next step at all is how the model reads R152 (log 1). -/
def Obligations.StepAfterAFaultGoesAsUsual : Prop :=
  ∀ (s : State) (x : StepInput) (rest : List StepInput),
    s.input.rst = false → s.input.cmdValid = true → Cmd.reserved s.input.cmd = true →
    s.pending = x :: rest →
    ∃ t u u', step s = .next t ∧ step t = .next u ∧
      t.result = .fault (.illegalCommand s.input.cmd) ∧
      step { s with input := x, pending := rest } = .next u' ∧
      u.rf = u'.rf ∧ u.result = u'.result ∧ u.faultMark = true ∧
      (x.isIllegal = true → u.result = .fault (.illegalCommand x.cmd))

/-- 60_exceptions R155: rst before IllegalCommand before a legal command, as one chain. (The fault is the
result of a next state: log 1.) -/
def Obligations.ResetThenIllegalThenLegal : Prop :=
  ∀ s : State, s.input.cmdValid = true → ∃ t, step s = .next t ∧
    if s.input.rst = true then
      t.rf = RegFile.reset ∧ t.result = .ok .none ∧ t.faultMark = s.faultMark
    else if Cmd.reserved s.input.cmd = true then
      t.rf = s.rf ∧ t.result = .fault (.illegalCommand s.input.cmd) ∧ t.faultMark = true
    else
      ∃ i u r, decode s.input.cmd = .legal i ∧ exec i s = .next u ∧ t.rf = u.rf ∧
        t.result = u.result ∧ u.result = .ok r ∧ t.faultMark = s.faultMark

/-- 60_exceptions R150: no legal command raises anything, in any state and for any datum; D9: each
answers on the port its accessor's signature gives it, or not at all. -/
def Obligations.NoLegalCommandRaises : Prop :=
  ∀ (i : Instr) (s : State), ∃ t r, exec i s = .next t ∧ t.result = .ok r ∧
    t.result.port = i.responsePort ∧ t.faultMark = s.faultMark

/-- 00_scope R13, 60_exceptions R152: the block never stops, whatever the owner presents. That it goes on
after a fault is how the model reads R152 (log 1), and that it idles past the owner's list is log 3. -/
def Obligations.NoRunStops : Prop :=
  ∀ (n : Nat) (s : State), ∃ t, run n s = .next t

/-- 30_encoding R70: the output signals for each result; a data output that is not valid has no value,
and the two valid bits are never both 1. -/
def Obligations.OutputSignalsShowTheResult : Prop :=
  ∀ s : State,
    (∀ v, s.result = .ok (.val8 v) → s.rvalid8 = true ∧ s.rdata8 = some v ∧ s.rvalid16 = false ∧
      s.rdata16 = none ∧ s.faultOut = false ∧ s.faultCmd = none) ∧
    (∀ v, s.result = .ok (.val16 v) → s.rvalid16 = true ∧ s.rdata16 = some v ∧ s.rvalid8 = false ∧
      s.rdata8 = none ∧ s.faultOut = false ∧ s.faultCmd = none) ∧
    (s.result = .ok .none → s.rvalid8 = false ∧ s.rdata8 = none ∧ s.rvalid16 = false ∧
      s.rdata16 = none ∧ s.faultOut = false ∧ s.faultCmd = none) ∧
    (∀ w, s.result = .fault (.illegalCommand w) → s.faultOut = true ∧ s.faultCmd = some w ∧
      s.rvalid8 = false ∧ s.rdata8 = none ∧ s.rvalid16 = false ∧ s.rdata16 = none) ∧
    (s.rvalid8 && s.rvalid16) = false

/-! ### The commands, family by family: result, frame and completion -/

/-- 40_reg8_access R101, R103, R105, R107, R109, R111, R113, R115. -/
def Obligations.Read8AnswersItsCell : Prop :=
  ReadsCell8 0b000000#6 .readA .setA .setAF (·.a) upper ∧
  ReadsCell8 0b000001#6 .readB .setB .setBC (·.b) upper ∧
  ReadsCell8 0b000010#6 .readC .setC .setBC (·.c) lower ∧
  ReadsCell8 0b000011#6 .readD .setD .setDE (·.d) upper ∧
  ReadsCell8 0b000100#6 .readE .setE .setDE (·.e) lower ∧
  ReadsCell8 0b000101#6 .readF .setF .setAF (·.f) lower ∧
  ReadsCell8 0b000110#6 .readH .setH .setHL (·.h) upper ∧
  ReadsCell8 0b000111#6 .readL .setL .setHL (·.l) lower

/-- 40_reg8_access R102, R104, R106, R108, R110, R112, R114, R116. -/
def Obligations.Set8StoresAndAnswersItsDatum : Prop :=
  SetsCell8 0b001000#6 .setA (·.a) (fun rf x => { rf with a := x }) .af upper lower ∧
  SetsCell8 0b001001#6 .setB (·.b) (fun rf x => { rf with b := x }) .bc upper lower ∧
  SetsCell8 0b001010#6 .setC (·.c) (fun rf x => { rf with c := x }) .bc lower upper ∧
  SetsCell8 0b001011#6 .setD (·.d) (fun rf x => { rf with d := x }) .de upper lower ∧
  SetsCell8 0b001100#6 .setE (·.e) (fun rf x => { rf with e := x }) .de lower upper ∧
  SetsCell8 0b001101#6 .setF (·.f) (fun rf x => { rf with f := x }) .af lower upper ∧
  SetsCell8 0b001110#6 .setH (·.h) (fun rf x => { rf with h := x }) .hl upper lower ∧
  SetsCell8 0b001111#6 .setL (·.l) (fun rf x => { rf with l := x }) .hl lower upper

/-- 41_pair16_access R124, R126, R128, R130. -/
def Obligations.ReadPairAnswersHighThenLow : Prop :=
  ReadsPair 0b010000#6 .readAF .setAF (·.a) (·.f) ∧
  ReadsPair 0b010001#6 .readBC .setBC (·.b) (·.c) ∧
  ReadsPair 0b010010#6 .readDE .setDE (·.d) (·.e) ∧
  ReadsPair 0b010011#6 .readHL .setHL (·.h) (·.l)

/-- 41_pair16_access R125, R127, R129, R131. -/
def Obligations.SetPairStoresBothHalves : Prop :=
  SetsPair 0b011000#6 .setAF (·.a) (·.f) (fun rf x y => { rf with a := x, f := y }) ∧
  SetsPair 0b011001#6 .setBC (·.b) (·.c) (fun rf x y => { rf with b := x, c := y }) ∧
  SetsPair 0b011010#6 .setDE (·.d) (·.e) (fun rf x y => { rf with d := x, e := y }) ∧
  SetsPair 0b011011#6 .setHL (·.h) (·.l) (fun rf x y => { rf with h := x, l := y })

/-- 42_direct16_access R140, R142. -/
def Obligations.ReadDirectAnswersItsCell : Prop :=
  ReadsDirect 0b100000#6 .readSP .setSP (·.sp) ∧ ReadsDirect 0b100001#6 .readPC .setPC (·.pc)

/-- 42_direct16_access R141, R143. -/
def Obligations.SetDirectStoresItsDatum : Prop :=
  SetsDirect 0b101000#6 .setSP (·.sp) (fun rf v => { rf with sp := v }) ∧
  SetsDirect 0b101001#6 .setPC (·.pc) (fun rf v => { rf with pc := v })

/-! ### Laws of the families -/

/-- 40_reg8_access R117: SET8 of X changes no other cell, keeps the other byte of X's pair, and keeps
every pair without X. -/
def Obligations.Set8ChangesNoOtherCell : Prop :=
  ∀ (r : Reg8) (s : State), ∃ t, exec (Instr.set8 r) s = .next t ∧
    (∀ q, q ≠ r → t.rf.get8 q = s.rf.get8 q) ∧ t.rf.sp = s.rf.sp ∧ t.rf.pc = s.rf.pc ∧
    (∀ p, r = hiCell p → lower (t.rf.getPair p) = lower (s.rf.getPair p)) ∧
    (∀ p, r = loCell p → upper (t.rf.getPair p) = upper (s.rf.getPair p)) ∧
    (∀ p, r ≠ hiCell p → r ≠ loCell p → t.rf.getPair p = s.rf.getPair p)

/-- 40_reg8_access R118, 70_reset_and_hazards R176: SET8 of X answers X's own NEW value, which is the
datum, and a read of X then answers the datum. -/
def Obligations.Set8AnswersItsOwnNewValue : Prop :=
  ∀ (r : Reg8) (s : State), ∃ t, exec (Instr.set8 r) s = .next t ∧
    t.result = .ok (.val8 (t.rf.get8 r)) ∧ t.rf.get8 r = s.input.wdata8 ∧
    exec (Instr.read8 r) t = .next { t with result := .ok (.val8 s.input.wdata8) }

/-- 40_reg8_access R119, 70_reset_and_hazards R175: SET_X x, then any steps that do not write X (none at
all among them), then READ_X: the answer is x. -/
def Obligations.Read8AnswersTheValueLastSet : Prop :=
  ∀ (r : Reg8) (x y : StepInput) (mid rest : List StepInput) (s : State),
    s.input = x → s.pending = mid ++ y :: rest →
    x.legalCommand = some (Instr.set8 r) → (∀ m ∈ mid, m.writes8 r = false) →
    y.legalCommand = some (Instr.read8 r) →
    ∃ t, run (mid.length + 2) s = .next t ∧ t.result = .ok (.val8 x.wdata8)

/-- 42_direct16_access R140 to R143, 70_reset_and_hazards R175: the same of SP and PC. -/
def Obligations.ReadDirectAnswersTheValueLastSet : Prop :=
  ∀ (d : Direct) (x y : StepInput) (mid rest : List StepInput) (s : State),
    s.input = x → s.pending = mid ++ y :: rest →
    x.legalCommand = some (Instr.setDirect d) → (∀ m ∈ mid, m.writesD d = false) →
    y.legalCommand = some (Instr.readDirect d) →
    ∃ t, run (mid.length + 2) s = .next t ∧ t.result = .ok (.val16 x.wdata16)

/-- 41_pair16_access R120: compose at 16-bit width is concatenation, high byte first. -/
def Obligations.ComposeIsConcatenation : Prop :=
  ∀ hi lo : Byte,
    compose hi lo = (hi.zeroExtend 16 <<< 8) ||| lo.zeroExtend 16 ∧ compose hi lo = cat hi lo ∧
    (compose hi lo).extractLsb' 8 8 = hi ∧ (compose hi lo).extractLsb' 0 8 = lo

/-- 41_pair16_access R121: decompose gives v >> 8 and v & 0xFF, which are v[15:8] and v[7:0]. -/
def Obligations.DecomposeTakesBothBytes : Prop :=
  ∀ v : Word,
    decompose v = ((v >>> 8).truncate 8, (v &&& 0x00FF#16).truncate 8) ∧
    decompose v = (v.extractLsb' 8 8, v.extractLsb' 0 8)

/-- 41_pair16_access R122: compose after decompose is the identity; and SET_P v, then any steps that
write neither cell of P, then READ_P: the answer is v. -/
def Obligations.PairRoundTrip : Prop :=
  (∀ v : Word, compose (decompose v).1 (decompose v).2 = v) ∧
  ∀ (p : Pair) (x y : StepInput) (mid rest : List StepInput) (s : State),
    s.input = x → s.pending = mid ++ y :: rest →
    x.legalCommand = some (Instr.set16 p) →
    (∀ m ∈ mid, m.writes8 (hiCell p) = false ∧ m.writes8 (loCell p) = false) →
    y.legalCommand = some (Instr.read16 p) →
    ∃ t, run (mid.length + 2) s = .next t ∧ t.result = .ok (.val16 x.wdata16)

/-- 41_pair16_access R123: decompose after compose is the identity, so the two are inverse bijections;
and after SET_P v the two cells read v[15:8] and v[7:0]. -/
def Obligations.ByteRoundTrip : Prop :=
  (∀ hi lo : Byte, decompose (compose hi lo) = (hi, lo)) ∧
  Function.Bijective decompose ∧
  ∀ (p : Pair) (s : State), ∃ t, exec (Instr.set16 p) s = .next t ∧
    exec (Instr.read8 (hiCell p)) t =
      .next { t with result := .ok (.val8 (upper s.input.wdata16)) } ∧
    exec (Instr.read8 (loCell p)) t =
      .next { t with result := .ok (.val8 (lower s.input.wdata16)) }

/-- 41_pair16_access R132: SET_P writes the two cells of P and no other cell or pair. -/
def Obligations.SetPairChangesNoOtherCell : Prop :=
  ∀ (p : Pair) (s : State), ∃ t, exec (Instr.set16 p) s = .next t ∧
    t.rf.get8 (hiCell p) = upper s.input.wdata16 ∧
    t.rf.get8 (loCell p) = lower s.input.wdata16 ∧
    (∀ q, q ≠ hiCell p → q ≠ loCell p → t.rf.get8 q = s.rf.get8 q) ∧
    t.rf.sp = s.rf.sp ∧ t.rf.pc = s.rf.pc ∧
    (∀ q, q ≠ p → t.rf.getPair q = s.rf.getPair q)

/-- 41_pair16_access R133, 20_memory R53: in every state, however its cells came about, READ_P answers
the two cells' bytes; an 8-bit write changes its own half of the pair's value and keeps the other; a
pair write sets both. -/
def Obligations.PairAndByteViewsAgree : Prop :=
  ∀ (p : Pair) (s : State),
    (exec (Instr.read16 p) s =
      .next { s with result := .ok (.val16 (cat (s.rf.get8 (hiCell p)) (s.rf.get8 (loCell p)))) }) ∧
    (exec (Instr.read8 (hiCell p)) s =
      .next { s with result := .ok (.val8 (upper (s.rf.getPair p))) }) ∧
    (exec (Instr.read8 (loCell p)) s =
      .next { s with result := .ok (.val8 (lower (s.rf.getPair p))) }) ∧
    (∃ t, exec (Instr.set8 (hiCell p)) s = .next t ∧
      t.rf.getPair p = cat s.input.wdata8 (lower (s.rf.getPair p))) ∧
    (∃ t, exec (Instr.set8 (loCell p)) s = .next t ∧
      t.rf.getPair p = cat (upper (s.rf.getPair p)) s.input.wdata8) ∧
    (∃ t, exec (Instr.set16 p) s = .next t ∧ t.rf.getPair p = s.input.wdata16)

/-- 42_direct16_access R144: SET_SP writes SP alone and SET_PC writes PC alone; no 8-bit or pair write
changes SP or PC. -/
def Obligations.DirectCellsShareNothing : Prop :=
  (∀ s : State, ∃ t, exec .setSP s = .next t ∧ t.rf.sp = s.input.wdata16 ∧ t.rf.pc = s.rf.pc ∧
    (∀ r, t.rf.get8 r = s.rf.get8 r) ∧ (∀ p, t.rf.getPair p = s.rf.getPair p)) ∧
  (∀ s : State, ∃ t, exec .setPC s = .next t ∧ t.rf.pc = s.input.wdata16 ∧ t.rf.sp = s.rf.sp ∧
    (∀ r, t.rf.get8 r = s.rf.get8 r) ∧ (∀ p, t.rf.getPair p = s.rf.getPair p)) ∧
  (∀ (r : Reg8) (s : State), ∃ t, exec (Instr.set8 r) s = .next t ∧
    t.rf.sp = s.rf.sp ∧ t.rf.pc = s.rf.pc) ∧
  (∀ (p : Pair) (s : State), ∃ t, exec (Instr.set16 p) s = .next t ∧
    t.rf.sp = s.rf.sp ∧ t.rf.pc = s.rf.pc)

/-- 42_direct16_access R145: a step changes SP only by SET_SP or reset, and PC only by SET_PC or reset;
no step of any other kind advances PC or moves SP. -/
def Obligations.NothingElseMovesSpOrPc : Prop :=
  ∀ s t : State, step s = .next t → s.input.rst = false →
    (s.input.legalCommand ≠ some .setSP → t.rf.sp = s.rf.sp) ∧
    (s.input.legalCommand ≠ some .setPC → t.rf.pc = s.rf.pc)

/-- 10_state R34, R26: a step changes F only by SET_F, SET_AF or reset; and no command but READ_F and
READ_AF answers anything that depends on F. -/
def Obligations.FlagsByteIsPlainStorage : Prop :=
  (∀ s t : State, step s = .next t → s.input.rst = false →
    s.input.legalCommand ≠ some .setF → s.input.legalCommand ≠ some .setAF →
    flagsByte t = flagsByte s) ∧
  (∀ (i : Instr) (s : State) (x : Byte), i ≠ .readF → i ≠ .readAF →
    ∃ t u, exec i s = .next t ∧ exec i { s with rf := { s.rf with f := x } } = .next u ∧
      u.result = t.result ∧ { u.rf with f := 0x00#8 } = { t.rf with f := 0x00#8 })

/-- 10_state R37: the frame of every command. The cells that R37's table does not list as written by the
command keep their values, and the interface and the fault mark are untouched. -/
def Obligations.CommandWritesOnlyItsCells : Prop :=
  ∀ (i : Instr) (s : State), ∃ t, exec i s = .next t ∧
    (∀ r, i ∉ writers8 r → t.rf.get8 r = s.rf.get8 r) ∧
    (∀ d, i ∉ writersD d → t.rf.getD d = s.rf.getD d) ∧
    t.input = s.input ∧ t.pending = s.pending ∧ t.faultMark = s.faultMark

/-- 20_memory R57: a read changes no cell, and any command given twice with the same data leaves what
giving it once leaves, and answers the same. -/
def Obligations.ReadsArePureAndWritesIdempotent : Prop :=
  ∀ (i : Instr) (s : State), ∃ t, exec i s = .next t ∧ exec i t = .next t ∧
    (i.datumPort = none → t.rf = s.rf)

/-- 30_encoding R77: a command's next RF and its answer depend on no write-data input but the one its
class and W name. -/
def Obligations.UnusedWriteDataIsIgnored : Prop :=
  ∀ (i : Instr) (s s' : State), s.rf = s'.rf →
    (i.datumPort = some .p8 → s.input.wdata8 = s'.input.wdata8) →
    (i.datumPort = some .p16 → s.input.wdata16 = s'.input.wdata16) →
    ∃ t t', exec i s = .next t ∧ exec i s' = .next t' ∧ t.rf = t'.rf ∧ t.result = t'.result

/-! ### Whole-machine statements -/

/-- 20_memory R59: after any run of steps the owner lists, every cell holds what the latest step that wrote it left
there (0 where that was a reset), or its value at the run's start where none wrote it; and every read
answers exactly that. -/
def Obligations.ReadsSeeTheLatestWrite : Prop :=
  ∀ (n : Nat) (s : State), n ≤ s.pending.length + 1 →
    let past := (sampled n s).reverse
    let now8 := fun r : Reg8 => latest (fun x => x.leaves8 r) (s.rf.get8 r) past
    let nowD := fun d : Direct => latest (fun x => x.leavesD d) (s.rf.getD d) past
    ∃ t, run n s = .next t ∧
      (∀ r, exec (Instr.read8 r) t = .next { t with result := .ok (.val8 (now8 r)) }) ∧
      (∀ p, exec (Instr.read16 p) t =
        .next { t with result := .ok (.val16 (cat (now8 (hiCell p)) (now8 (loCell p)))) }) ∧
      (∀ d, exec (Instr.readDirect d) t = .next { t with result := .ok (.val16 (nowD d)) })

/-- 60_exceptions R152: after any run the fault mark is set exactly where it was set before or some step
of the run presented a reserved word with no reset; nothing clears it, a reset neither. (That a run goes
on after a fault is how the model reads R152, log 1; that it idles past the owner's list is log 3.) -/
def Obligations.FaultMarkRecordsEveryFault : Prop :=
  ∀ (n : Nat) (s : State), ∃ t, run n s = .next t ∧
    t.faultMark = (s.faultMark || (sampled n s).any StepInput.isIllegal)

/-- 60_exceptions R151, R152: whatever the state before it, a step leaves a state in which a fault at the
output is recorded in the mark and shows a reserved word; and the mark, once set, stays. -/
def Obligations.EveryStepRecordsItsFault : Prop :=
  ∀ s t : State, step s = .next t → t.Inv ∧ (s.faultMark = true → t.faultMark = true)

/-- Both predicates hold at reset. No fault recorded at the start of a life is DEDUCED (log 5), and an
owner that has presented nothing yet is the model's choice (log 6). -/
def Obligations.ResetHasNoFaultRecorded : Prop :=
  State.reset.Inv ∧ State.reset.Clean ∧ State.reset.good = true

/-- 60_exceptions R150, R151, R152: of an owner that never presents a reserved word, every step leaves a
state of the same kind, gives a result that is no fault, and leaves the fault mark clear. -/
def Obligations.CleanOwnerNeverFaults : Prop :=
  ∀ s t : State, s.Clean → step s = .next t →
    t.Clean ∧ t.good = true ∧ ∃ r, t.result = .ok r

/-- 30_encoding R77, R82, 70_reset_and_hazards R170: two owners whose steps differ only in inputs their
steps ignore cannot tell the block apart: after any number of steps RF, the answer and the fault mark
agree, and so do the steps still to come, up to ignored inputs. -/
def Obligations.IgnoredInputsNeverShow : Prop :=
  ∀ (n : Nat) (s s' : State), s.visible = s'.visible →
    ∃ t t', run n s = .next t ∧ run n s' = .next t' ∧ t.visible = t'.visible

/-- 10_state R33: no value of any cell is illegal: an owner can bring every cell to any value, all ten at
once, from reset and with no fault. -/
def Obligations.EveryRegisterFileIsReachable : Prop :=
  ∀ rf : RegFile, ∃ (n : Nat) (first : StepInput) (more : List StepInput) (t : State),
    run n { State.reset with input := first, pending := more } = .next t ∧ t.rf = rf ∧
      t.good = true
end

