-- ==== Sys2Proof/Laws/State.lean ====
section
/-! SUPPORT. One lemma per field per update of State and RegFile, so that no later proof unfolds a
record update. -/

namespace Sys2Proof.Machine

/-! ### withRf -/

@[simp] theorem State.withRf_rf (s : State) (rf : RegFile) : (s.withRf rf).rf = rf := rfl
@[simp] theorem State.withRf_input (s : State) (rf : RegFile) : (s.withRf rf).input = s.input := rfl
@[simp] theorem State.withRf_pending (s : State) (rf : RegFile) : (s.withRf rf).pending = s.pending := rfl
@[simp] theorem State.withRf_result (s : State) (rf : RegFile) : (s.withRf rf).result = s.result := rfl
@[simp] theorem State.withRf_faultMark (s : State) (rf : RegFile) : (s.withRf rf).faultMark = s.faultMark := rfl

/-! ### respond -/

@[simp] theorem State.respond_rf (s : State) (r : Response) : (s.respond r).rf = s.rf := rfl
@[simp] theorem State.respond_input (s : State) (r : Response) : (s.respond r).input = s.input := rfl
@[simp] theorem State.respond_pending (s : State) (r : Response) : (s.respond r).pending = s.pending := rfl
@[simp] theorem State.respond_result (s : State) (r : Response) : (s.respond r).result = .ok r := rfl
@[simp] theorem State.respond_faultMark (s : State) (r : Response) : (s.respond r).faultMark = s.faultMark := rfl

/-! ### raiseIllegalCommand -/

@[simp] theorem State.raiseIllegalCommand_rf (s : State) (cmd : Cmd) : (s.raiseIllegalCommand cmd).rf = s.rf := rfl
@[simp] theorem State.raiseIllegalCommand_input (s : State) (cmd : Cmd) : (s.raiseIllegalCommand cmd).input = s.input := rfl
@[simp] theorem State.raiseIllegalCommand_pending (s : State) (cmd : Cmd) : (s.raiseIllegalCommand cmd).pending = s.pending := rfl
@[simp] theorem State.raiseIllegalCommand_result (s : State) (cmd : Cmd) : (s.raiseIllegalCommand cmd).result = .fault (.illegalCommand cmd) := rfl
@[simp] theorem State.raiseIllegalCommand_faultMark (s : State) (cmd : Cmd) : (s.raiseIllegalCommand cmd).faultMark = true := rfl

/-! ### resetCells -/

@[simp] theorem State.resetCells_rf (s : State) : (s.resetCells).rf = RegFile.reset := rfl
@[simp] theorem State.resetCells_input (s : State) : (s.resetCells).input = s.input := rfl
@[simp] theorem State.resetCells_pending (s : State) : (s.resetCells).pending = s.pending := rfl
@[simp] theorem State.resetCells_result (s : State) : (s.resetCells).result = .ok .none := rfl
@[simp] theorem State.resetCells_faultMark (s : State) : (s.resetCells).faultMark = s.faultMark := rfl

/-! ### idleStep -/

@[simp] theorem State.idleStep_rf (s : State) : (s.idleStep).rf = s.rf := rfl
@[simp] theorem State.idleStep_input (s : State) : (s.idleStep).input = s.input := rfl
@[simp] theorem State.idleStep_pending (s : State) : (s.idleStep).pending = s.pending := rfl
@[simp] theorem State.idleStep_result (s : State) : (s.idleStep).result = .ok .none := rfl
@[simp] theorem State.idleStep_faultMark (s : State) : (s.idleStep).faultMark = s.faultMark := rfl

/-! ### present -/

@[simp] theorem State.present_rf (s : State) (cmd : Cmd) : (s.present cmd).rf = s.rf := rfl
@[simp] theorem State.present_input (s : State) (cmd : Cmd) : (s.present cmd).input = { s.input with rst := false, cmdValid := true, cmd := cmd } := rfl
@[simp] theorem State.present_pending (s : State) (cmd : Cmd) : (s.present cmd).pending = s.pending := rfl
@[simp] theorem State.present_result (s : State) (cmd : Cmd) : (s.present cmd).result = s.result := rfl
@[simp] theorem State.present_faultMark (s : State) (cmd : Cmd) : (s.present cmd).faultMark = s.faultMark := rfl

/-! ### advance: it touches the owner's steps and nothing else -/

@[simp] theorem State.advance_rf (s : State) : s.advance.rf = s.rf := by
  unfold State.advance; split <;> rfl
@[simp] theorem State.advance_result (s : State) : s.advance.result = s.result := by
  unfold State.advance; split <;> rfl
@[simp] theorem State.advance_faultMark (s : State) : s.advance.faultMark = s.faultMark := by
  unfold State.advance; split <;> rfl

theorem State.advance_input_nil (s : State) (h : s.pending = []) :
    s.advance.input = StepInput.idle := by
  simp [State.advance, h]

theorem State.advance_pending_nil (s : State) (h : s.pending = []) : s.advance.pending = [] := by
  simp [State.advance, h]

theorem State.advance_input_cons (s : State) (x : StepInput) (rest : List StepInput)
    (h : s.pending = x :: rest) : s.advance.input = x := by
  simp [State.advance, h]

theorem State.advance_pending_cons (s : State) (x : StepInput) (rest : List StepInput)
    (h : s.pending = x :: rest) : s.advance.pending = rest := by
  simp [State.advance, h]

/-! ### RegFile writes: one lemma per kind of read -/

@[simp] theorem RegFile.get8_set8_same (rf : RegFile) (r : Reg8) (v : Byte) :
    (rf.set8 r v).get8 r = v := by
  cases r <;> rfl

theorem RegFile.get8_set8_ne (rf : RegFile) (r q : Reg8) (v : Byte) (h : q ≠ r) :
    (rf.set8 r v).get8 q = rf.get8 q := by
  cases r <;> cases q <;> first | rfl | exact absurd rfl h

@[simp] theorem RegFile.getD_set8 (rf : RegFile) (r : Reg8) (v : Byte) (d : Direct) :
    (rf.set8 r v).getD d = rf.getD d := by
  cases r <;> cases d <;> rfl

@[simp] theorem RegFile.getD_setD_same (rf : RegFile) (d : Direct) (v : Word) :
    (rf.setD d v).getD d = v := by
  cases d <;> rfl

theorem RegFile.getD_setD_ne (rf : RegFile) (d q : Direct) (v : Word) (h : q ≠ d) :
    (rf.setD d v).getD q = rf.getD q := by
  cases d <;> cases q <;> first | rfl | exact absurd rfl h

@[simp] theorem RegFile.get8_setD (rf : RegFile) (d : Direct) (v : Word) (r : Reg8) :
    (rf.setD d v).get8 r = rf.get8 r := by
  cases d <;> cases r <;> rfl

@[simp] theorem RegFile.get8_reset (r : Reg8) : RegFile.reset.get8 r = 0x00#8 := by
  cases r <;> rfl

@[simp] theorem RegFile.getD_reset (d : Direct) : RegFile.reset.getD d = 0x0000#16 := by
  cases d <;> rfl

/-- RF is its ten cells and nothing else. -/
theorem RegFile.ext_cells {x y : RegFile} (h8 : ∀ r, x.get8 r = y.get8 r)
    (hD : ∀ d, x.getD d = y.getD d) : x = y := by
  obtain ⟨a, b, c, d, e, f, h, l, sp, pc⟩ := x
  obtain ⟨a', b', c', d', e', f', h', l', sp', pc'⟩ := y
  have := h8 .a; have := h8 .b; have := h8 .c; have := h8 .d
  have := h8 .e; have := h8 .f; have := h8 .h; have := h8 .l
  have := hD .sp; have := hD .pc
  simp_all [RegFile.get8, RegFile.getD]

end Sys2Proof.Machine
end

