-- ==== Sys2Proof/Laws/Ops.lean ====
section
/-! SUPPORT. Once for each shared operation: everything it can do. -/

namespace Sys2Proof.Machine

/-! ### Pair views -/

theorem hiCell_ne_loCell (p : Pair) : hiCell p ≠ loCell p := by
  cases p <;> decide

theorem RegFile.get8_setPair_hi (rf : RegFile) (p : Pair) (v : Word) :
    (rf.setPair p v).get8 (hiCell p) = highByte v := by
  rw [RegFile.setPair, RegFile.get8_set8_ne _ _ _ _ (hiCell_ne_loCell p),
    RegFile.get8_set8_same, decompose]

theorem RegFile.get8_setPair_lo (rf : RegFile) (p : Pair) (v : Word) :
    (rf.setPair p v).get8 (loCell p) = lowByte v := by
  rw [RegFile.setPair, RegFile.get8_set8_same, decompose]

theorem RegFile.get8_setPair_ne (rf : RegFile) (p : Pair) (v : Word) (r : Reg8)
    (hh : r ≠ hiCell p) (hl : r ≠ loCell p) : (rf.setPair p v).get8 r = rf.get8 r := by
  rw [RegFile.setPair, RegFile.get8_set8_ne _ _ _ _ hl, RegFile.get8_set8_ne _ _ _ _ hh]

@[simp] theorem RegFile.getD_setPair (rf : RegFile) (p : Pair) (v : Word) (d : Direct) :
    (rf.setPair p v).getD d = rf.getD d := by
  simp [RegFile.setPair]

/-! ### Meanings -/

@[simp] theorem readCell8_eq (r : Reg8) (s : State) :
    readCell8 r s = .next (s.respond (.val8 (s.rf.get8 r))) := rfl

@[simp] theorem setCell8_eq (r : Reg8) (s : State) :
    setCell8 r s =
      .next ((s.withRf (s.rf.set8 r s.input.wdata8)).respond (.val8 s.input.wdata8)) := by
  simp [setCell8, State.datum8]

@[simp] theorem readPair_eq (p : Pair) (s : State) :
    readPair p s = .next (s.respond (.val16 (s.rf.getPair p))) := rfl

@[simp] theorem setPair_eq (p : Pair) (s : State) :
    setPair p s = .next ((s.withRf (s.rf.setPair p s.input.wdata16)).respond .none) := rfl

@[simp] theorem readDirect_eq (d : Direct) (s : State) :
    readDirect d s = .next (s.respond (.val16 (s.rf.getD d))) := rfl

@[simp] theorem setDirect_eq (d : Direct) (s : State) :
    setDirect d s = .next ((s.withRf (s.rf.setD d s.input.wdata16)).respond .none) := rfl

/-! ### exec by kind of command -/

theorem exec_read8 (r : Reg8) (s : State) : exec (Instr.read8 r) s = readCell8 r s := by
  cases r <;> rfl

theorem exec_set8 (r : Reg8) (s : State) : exec (Instr.set8 r) s = setCell8 r s := by
  cases r <;> rfl

theorem exec_read16 (p : Pair) (s : State) : exec (Instr.read16 p) s = readPair p s := by
  cases p <;> rfl

theorem exec_set16 (p : Pair) (s : State) : exec (Instr.set16 p) s = setPair p s := by
  cases p <;> rfl

theorem exec_readDirect (d : Direct) (s : State) : exec (Instr.readDirect d) s = readDirect d s := by
  cases d <;> rfl

theorem exec_setDirect (d : Direct) (s : State) : exec (Instr.setDirect d) s = setDirect d s := by
  cases d <;> rfl

/-- Every command is one of the six kinds. -/
theorem instr_kind (i : Instr) :
    (∃ r, i = .read8 r) ∨ (∃ r, i = .set8 r) ∨ (∃ p, i = .read16 p) ∨ (∃ p, i = .set16 p) ∨
      (∃ d, i = .readDirect d) ∨ ∃ d, i = .setDirect d := by
  cases i
  case readA => exact .inl ⟨.a, rfl⟩
  case readB => exact .inl ⟨.b, rfl⟩
  case readC => exact .inl ⟨.c, rfl⟩
  case readD => exact .inl ⟨.d, rfl⟩
  case readE => exact .inl ⟨.e, rfl⟩
  case readF => exact .inl ⟨.f, rfl⟩
  case readH => exact .inl ⟨.h, rfl⟩
  case readL => exact .inl ⟨.l, rfl⟩
  case setA => exact .inr (.inl ⟨.a, rfl⟩)
  case setB => exact .inr (.inl ⟨.b, rfl⟩)
  case setC => exact .inr (.inl ⟨.c, rfl⟩)
  case setD => exact .inr (.inl ⟨.d, rfl⟩)
  case setE => exact .inr (.inl ⟨.e, rfl⟩)
  case setF => exact .inr (.inl ⟨.f, rfl⟩)
  case setH => exact .inr (.inl ⟨.h, rfl⟩)
  case setL => exact .inr (.inl ⟨.l, rfl⟩)
  case readAF => exact .inr (.inr (.inl ⟨.af, rfl⟩))
  case readBC => exact .inr (.inr (.inl ⟨.bc, rfl⟩))
  case readDE => exact .inr (.inr (.inl ⟨.de, rfl⟩))
  case readHL => exact .inr (.inr (.inl ⟨.hl, rfl⟩))
  case setAF => exact .inr (.inr (.inr (.inl ⟨.af, rfl⟩)))
  case setBC => exact .inr (.inr (.inr (.inl ⟨.bc, rfl⟩)))
  case setDE => exact .inr (.inr (.inr (.inl ⟨.de, rfl⟩)))
  case setHL => exact .inr (.inr (.inr (.inl ⟨.hl, rfl⟩)))
  case readSP => exact .inr (.inr (.inr (.inr (.inl ⟨.sp, rfl⟩))))
  case readPC => exact .inr (.inr (.inr (.inr (.inl ⟨.pc, rfl⟩))))
  case setSP => exact .inr (.inr (.inr (.inr (.inr ⟨.sp, rfl⟩))))
  case setPC => exact .inr (.inr (.inr (.inr (.inr ⟨.pc, rfl⟩))))

/-- What exec can do: it answers the state with some RF and some response, and touches nothing else. -/
theorem exec_shape (i : Instr) (s : State) :
    ∃ rf r, exec i s = .next ((s.withRf rf).respond r) := by
  obtain ⟨r, rfl⟩ | ⟨r, rfl⟩ | ⟨p, rfl⟩ | ⟨p, rfl⟩ | ⟨d, rfl⟩ | ⟨d, rfl⟩ := instr_kind i
  · exact ⟨s.rf, _, exec_read8 r s⟩
  · exact ⟨_, _, (exec_set8 r s).trans (setCell8_eq r s)⟩
  · exact ⟨s.rf, _, exec_read16 p s⟩
  · exact ⟨_, _, exec_set16 p s⟩
  · exact ⟨s.rf, _, exec_readDirect d s⟩
  · exact ⟨_, _, exec_setDirect d s⟩

end Sys2Proof.Machine
end

