-- ==== Sys2Proof/Laws/PerInstr.lean ====
section
/-! SUPPORT. Statements for all commands, one lemma per constructor: the encoded word's fields are the
ones 30_encoding R72, R73 and R77 give the command. -/

namespace Sys2Proof.Laws.WordFields

/-- The word of a command is no reserved word; its W bit says whether it is a set command; its CLASS is
00 exactly where the command answers on P8 (every 8-bit command does, and no other). -/
def Statement (i : Instr) : Prop :=
  Cmd.wf (encode i) = true ∧ cmdWrite (encode i) = i.datumPort.isSome ∧
    (cmdClass (encode i) = 0b00#2 ↔ i.responsePort = some .p8)

theorem readA : Statement .readA := by unfold Statement; decide

theorem setA : Statement .setA := by unfold Statement; decide

theorem readB : Statement .readB := by unfold Statement; decide

theorem setB : Statement .setB := by unfold Statement; decide

theorem readC : Statement .readC := by unfold Statement; decide

theorem setC : Statement .setC := by unfold Statement; decide

theorem readD : Statement .readD := by unfold Statement; decide

theorem setD : Statement .setD := by unfold Statement; decide

theorem readE : Statement .readE := by unfold Statement; decide

theorem setE : Statement .setE := by unfold Statement; decide

theorem readF : Statement .readF := by unfold Statement; decide

theorem setF : Statement .setF := by unfold Statement; decide

theorem readH : Statement .readH := by unfold Statement; decide

theorem setH : Statement .setH := by unfold Statement; decide

theorem readL : Statement .readL := by unfold Statement; decide

theorem setL : Statement .setL := by unfold Statement; decide

theorem readAF : Statement .readAF := by unfold Statement; decide

theorem setAF : Statement .setAF := by unfold Statement; decide

theorem readBC : Statement .readBC := by unfold Statement; decide

theorem setBC : Statement .setBC := by unfold Statement; decide

theorem readDE : Statement .readDE := by unfold Statement; decide

theorem setDE : Statement .setDE := by unfold Statement; decide

theorem readHL : Statement .readHL := by unfold Statement; decide

theorem setHL : Statement .setHL := by unfold Statement; decide

theorem readSP : Statement .readSP := by unfold Statement; decide

theorem setSP : Statement .setSP := by unfold Statement; decide

theorem readPC : Statement .readPC := by unfold Statement; decide

theorem setPC : Statement .setPC := by unfold Statement; decide

end Sys2Proof.Laws.WordFields
end

