-- ==== Sys2Proof/Laws/Step.lean ====
section
/-! SUPPORT. What one step can do, said once. -/

namespace Sys2Proof.Machine

/-- The four kinds of step, and what each leaves before the owner's next step is taken up. -/
theorem step_cases {s t : State} (h : step s = .next t) :
    (s.input.rst = true ∧ t = s.resetCells.advance) ∨
    (s.input.rst = false ∧ s.input.cmdValid = false ∧ t = s.idleStep.advance) ∨
    (s.input.rst = false ∧ s.input.cmdValid = true ∧
      ∃ cmd, decode s.input.cmd = .illegal cmd ∧ t = (s.raiseIllegalCommand cmd).advance) ∨
    (s.input.rst = false ∧ s.input.cmdValid = true ∧
      ∃ i u, decode s.input.cmd = .legal i ∧ exec i s = .next u ∧ t = u.advance) := by
  unfold step cycle at h
  cases hr : s.input.rst <;> cases hv : s.input.cmdValid <;> simp only [hr, hv] at h
  · exact .inr (.inl ⟨rfl, rfl, by simpa using h.symm⟩)
  · cases hd : decode s.input.cmd with
    | illegal cmd =>
      simp only [hd] at h
      exact .inr (.inr (.inl ⟨rfl, rfl, cmd, rfl, by simpa using h.symm⟩))
    | legal i =>
      obtain ⟨rf, r, he⟩ := exec_shape i s
      simp only [hd, he] at h
      exact .inr (.inr (.inr ⟨rfl, rfl, i, _, rfl, he, by simpa using h.symm⟩))
  · exact .inl ⟨rfl, by simpa using h.symm⟩
  · exact .inl ⟨rfl, by simpa using h.symm⟩

end Sys2Proof.Machine
end

