-- ==== Sys2Proof/Laws/Run.lean ====
section
/-! SUPPORT. Runs, one step at a time. -/

namespace Sys2Proof.Machine

@[simp] theorem run_zero (s : State) : run 0 s = .next s := rfl

/-- A run of n + 1 steps is the step, then a run of n from the state it answers. -/
theorem run_succ_of_step {s t : State} (n : Nat) (h : step s = .next t) :
    run (n + 1) s = run n t := by
  simp [run, h]

/-- Where the owner's next step comes from. -/
theorem State.advance_input (s : State) :
    s.advance.input = s.pending.headD StepInput.idle := by
  unfold State.advance; cases s.pending <;> rfl

theorem State.advance_pending (s : State) : s.advance.pending = s.pending.tail := by
  cases h : s.pending with
  | nil => rw [State.advance_pending_nil s h]; rfl
  | cons x rest => rw [State.advance_pending_cons s x rest h]; rfl

/-- Every step answers a next state, and leaves the owner's steps as advance does. -/
theorem step_next (s : State) :
    ∃ u : State, step s = .next u.advance ∧ u.input = s.input ∧ u.pending = s.pending := by
  cases hr : s.input.rst with
  | true => exact ⟨s.resetCells, by simp [step, cycle, hr], rfl, rfl⟩
  | false =>
    cases hv : s.input.cmdValid with
    | false => exact ⟨s.idleStep, by simp [step, cycle, hr, hv], rfl, rfl⟩
    | true =>
      cases hd : decode s.input.cmd with
      | illegal cmd =>
        exact ⟨s.raiseIllegalCommand cmd, by simp [step, cycle, hr, hv, hd], rfl, rfl⟩
      | legal i =>
        obtain ⟨rf, r, he⟩ := exec_shape i s
        exact ⟨(s.withRf rf).respond r, by simp [step, cycle, hr, hv, hd, he], rfl, rfl⟩

theorem coreRun_succ_of_step (M : Host.Core) {s t : M.State} (n : Nat) (h : M.step s = .next t) :
    M.run (n + 1) s = M.run n t := by
  rw [Host.Core.run, h]

/-- A run is the host's run of the machine behind its interface. -/
theorem run_eq_coreRun (n : Nat) (s : State) : run n s = Host.Core.run Sys2Proof.core n s := by
  induction n generalizing s with
  | zero => rfl
  | succ n ih =>
    obtain ⟨u, h, -⟩ := step_next s
    rw [run_succ_of_step n h, ih]
    exact (coreRun_succ_of_step Sys2Proof.core n h).symm

end Sys2Proof.Machine
end

