-- ==== Sys2Proof/Tests/Slice0.lean ====
section
/-! SUPPORT. The model's own tests: what well-formedness refuses, every command's word written out
from 30_encoding R72 to R76, one step of each command from the vectors of 95_test_vectors, the step's
other kinds, and a witness for every statement with hypotheses. -/

namespace Sys2Proof.Tests

open Sys2Proof.Machine Sys2Proof.Claims

/-! ### Helpers -/

/-- A machine with given cells and given input signals. -/
def given (rf : RegFile) (x : StepInput) : State := { State.reset with rf := rf, input := x }

/-- All cells zero. -/
def zero : RegFile := RegFile.reset

/-- Ten different values. -/
def mixed : RegFile :=
  { a := 0xE1, b := 0xE2, c := 0xE3, d := 0xE4, e := 0xE5, f := 0xE6, h := 0xE7, l := 0xE8,
    sp := 0xE9E9, pc := 0xEAEA }

/-- The signals rst = 0, cmd_valid = 1 with a command word and both write-data inputs. -/
def word (cmd : Cmd) (x : Byte) (v : Word) : StepInput :=
  { rst := false, cmdValid := true, cmd := cmd, wdata8 := x, wdata16 := v }

/-- RF, the result and the fault mark after a step. -/
def seen : Host.Outcome State Fault Refusal → Option (RegFile × StepResult × Bool)
  | .next t => some (t.rf, t.result, t.faultMark)
  | .fault _ => none
  | .refused _ => none

/-! ### Well-formedness refuses -/

theorem test_wf_refuses_class_11 : Cmd.wf 0x30#6 = false ∧ Cmd.wf 0x3F#6 = false := by decide

theorem test_wf_refuses_pair_sel :
    Cmd.wf 0x14#6 = false ∧ Cmd.wf 0x17#6 = false ∧ Cmd.wf 0x1C#6 = false ∧
      Cmd.wf 0x1F#6 = false := by decide

theorem test_wf_refuses_direct_sel :
    Cmd.wf 0x22#6 = false ∧ Cmd.wf 0x27#6 = false ∧ Cmd.wf 0x2A#6 = false ∧
      Cmd.wf 0x2F#6 = false := by decide

theorem test_wf_allows_the_edges :
    Cmd.wf 0x13#6 = true ∧ Cmd.wf 0x18#6 = true ∧ Cmd.wf 0x1B#6 = true ∧ Cmd.wf 0x21#6 = true ∧
      Cmd.wf 0x28#6 = true ∧ Cmd.wf 0x29#6 = true := by decide

theorem test_wf_refuses_read_line_of_a_set : (Line.read .setA).wf = false := by decide

theorem test_wf_refuses_byte_line_of_a_read_or_pair :
    (Line.set8 .readA 0x5C#8).wf = false ∧ (Line.set8 .setAF 0x5C#8).wf = false := by decide

theorem test_wf_refuses_word_line_of_a_byte_set : (Line.set16 .setA 0x1234#16).wf = false := by
  decide

/-! ### Decoding, from CLASS, W and SEL (R72 to R76) -/

theorem test_decode_readA : decode 0b000000#6 = .legal .readA := by decide

theorem test_decode_setA : decode 0b001000#6 = .legal .setA := by decide

theorem test_decode_readB : decode 0b000001#6 = .legal .readB := by decide

theorem test_decode_setB : decode 0b001001#6 = .legal .setB := by decide

theorem test_decode_readC : decode 0b000010#6 = .legal .readC := by decide

theorem test_decode_setC : decode 0b001010#6 = .legal .setC := by decide

theorem test_decode_readD : decode 0b000011#6 = .legal .readD := by decide

theorem test_decode_setD : decode 0b001011#6 = .legal .setD := by decide

theorem test_decode_readE : decode 0b000100#6 = .legal .readE := by decide

theorem test_decode_setE : decode 0b001100#6 = .legal .setE := by decide

theorem test_decode_readF : decode 0b000101#6 = .legal .readF := by decide

theorem test_decode_setF : decode 0b001101#6 = .legal .setF := by decide

theorem test_decode_readH : decode 0b000110#6 = .legal .readH := by decide

theorem test_decode_setH : decode 0b001110#6 = .legal .setH := by decide

theorem test_decode_readL : decode 0b000111#6 = .legal .readL := by decide

theorem test_decode_setL : decode 0b001111#6 = .legal .setL := by decide

theorem test_decode_readAF : decode 0b010000#6 = .legal .readAF := by decide

theorem test_decode_setAF : decode 0b011000#6 = .legal .setAF := by decide

theorem test_decode_readBC : decode 0b010001#6 = .legal .readBC := by decide

theorem test_decode_setBC : decode 0b011001#6 = .legal .setBC := by decide

theorem test_decode_readDE : decode 0b010010#6 = .legal .readDE := by decide

theorem test_decode_setDE : decode 0b011010#6 = .legal .setDE := by decide

theorem test_decode_readHL : decode 0b010011#6 = .legal .readHL := by decide

theorem test_decode_setHL : decode 0b011011#6 = .legal .setHL := by decide

theorem test_decode_readSP : decode 0b100000#6 = .legal .readSP := by decide

theorem test_decode_setSP : decode 0b101000#6 = .legal .setSP := by decide

theorem test_decode_readPC : decode 0b100001#6 = .legal .readPC := by decide

theorem test_decode_setPC : decode 0b101001#6 = .legal .setPC := by decide

theorem test_decode_reserved :
    decode 0b010100#6 = .illegal 0x14#6 ∧ decode 0b011111#6 = .illegal 0x1F#6 ∧
    decode 0b100010#6 = .illegal 0x22#6 ∧ decode 0b101111#6 = .illegal 0x2F#6 ∧
    decode 0b110000#6 = .illegal 0x30#6 ∧ decode 0b111111#6 = .illegal 0x3F#6 := by decide

theorem test_table_word : decodeTableWord 8 0x1B = some .setHL ∧ decodeTableWord 8 0x14 = none ∧
    decodeTableWord 8 0x41 = none := by decide

/-! ### One step of each command (95_test_vectors; each line names its vector) -/

/-- R101's example, with other cells that must not answer. -/
theorem test_readA : seen (step (given { mixed with a := 0x5C } (word 0x00 0xEE 0xEEEE))) =
    some ({ mixed with a := 0x5C }, .ok (.val8 0x5C), false) := by decide

/-- V1. -/
theorem test_setA : seen (step (given zero (word 0x08 0x80 0xBEEF))) =
    some ({ zero with a := 0x80 }, .ok (.val8 0x80), false) := by decide

/-- R103's example, with other cells that must not answer. -/
theorem test_readB : seen (step (given { mixed with b := 0xAF } (word 0x01 0xEE 0xEEEE))) =
    some ({ mixed with b := 0xAF }, .ok (.val8 0xAF), false) := by decide

/-- V2. -/
theorem test_setB : seen (step (given zero (word 0x09 0x80 0xBEEF))) =
    some ({ zero with b := 0x80 }, .ok (.val8 0x80), false) := by decide

/-- R105's example, with other cells that must not answer. -/
theorem test_readC : seen (step (given { mixed with c := 0x22 } (word 0x02 0xEE 0xEEEE))) =
    some ({ mixed with c := 0x22 }, .ok (.val8 0x22), false) := by decide

/-- V3. -/
theorem test_setC : seen (step (given zero (word 0x0A 0x80 0xBEEF))) =
    some ({ zero with c := 0x80 }, .ok (.val8 0x80), false) := by decide

/-- R107's example, with other cells that must not answer. -/
theorem test_readD : seen (step (given { mixed with d := 0x7E } (word 0x03 0xEE 0xEEEE))) =
    some ({ mixed with d := 0x7E }, .ok (.val8 0x7E), false) := by decide

/-- V4. -/
theorem test_setD : seen (step (given zero (word 0x0B 0x80 0xBEEF))) =
    some ({ zero with d := 0x80 }, .ok (.val8 0x80), false) := by decide

/-- R109's example, with other cells that must not answer. -/
theorem test_readE : seen (step (given { mixed with e := 0x01 } (word 0x04 0xEE 0xEEEE))) =
    some ({ mixed with e := 0x01 }, .ok (.val8 0x01), false) := by decide

/-- V5. -/
theorem test_setE : seen (step (given zero (word 0x0C 0x80 0xBEEF))) =
    some ({ zero with e := 0x80 }, .ok (.val8 0x80), false) := by decide

/-- R111's example, with other cells that must not answer. -/
theorem test_readF : seen (step (given { mixed with f := 0x4F } (word 0x05 0xEE 0xEEEE))) =
    some ({ mixed with f := 0x4F }, .ok (.val8 0x4F), false) := by decide

/-- V6. -/
theorem test_setF : seen (step (given zero (word 0x0D 0x80 0xBEEF))) =
    some ({ zero with f := 0x80 }, .ok (.val8 0x80), false) := by decide

/-- R113's example, with other cells that must not answer. -/
theorem test_readH : seen (step (given { mixed with h := 0x01 } (word 0x06 0xEE 0xEEEE))) =
    some ({ mixed with h := 0x01 }, .ok (.val8 0x01), false) := by decide

/-- V7. -/
theorem test_setH : seen (step (given zero (word 0x0E 0x80 0xBEEF))) =
    some ({ zero with h := 0x80 }, .ok (.val8 0x80), false) := by decide

/-- R115's example, with other cells that must not answer. -/
theorem test_readL : seen (step (given { mixed with l := 0x10 } (word 0x07 0xEE 0xEEEE))) =
    some ({ mixed with l := 0x10 }, .ok (.val8 0x10), false) := by decide

/-- V8. -/
theorem test_setL : seen (step (given zero (word 0x0F 0x80 0xBEEF))) =
    some ({ zero with l := 0x80 }, .ok (.val8 0x80), false) := by decide

/-- W6. -/
theorem test_readAF : seen (step (given { mixed with a := 0xD2, f := 0x40 } (word 0x10 0xEE 0xEEEE))) =
    some ({ mixed with a := 0xD2, f := 0x40 }, .ok (.val16 0xD240), false) := by decide

/-- V25. -/
theorem test_setAF : seen (step (given mixed (word 0x18 0x99 0x8001))) =
    some ({ mixed with a := 0x80, f := 0x01 }, .ok .none, false) := by decide

/-- W5. -/
theorem test_readBC : seen (step (given { mixed with b := 0xAF, c := 0x22 } (word 0x11 0xEE 0xEEEE))) =
    some ({ mixed with b := 0xAF, c := 0x22 }, .ok (.val16 0xAF22), false) := by decide

/-- V25. -/
theorem test_setBC : seen (step (given mixed (word 0x19 0x99 0x8001))) =
    some ({ mixed with b := 0x80, c := 0x01 }, .ok .none, false) := by decide

/-- V31. -/
theorem test_readDE : seen (step (given { mixed with d := 0x12, e := 0x34 } (word 0x12 0xEE 0xEEEE))) =
    some ({ mixed with d := 0x12, e := 0x34 }, .ok (.val16 0x1234), false) := by decide

/-- V25. -/
theorem test_setDE : seen (step (given mixed (word 0x1A 0x99 0x8001))) =
    some ({ mixed with d := 0x80, e := 0x01 }, .ok .none, false) := by decide

/-- W7. -/
theorem test_readHL : seen (step (given { mixed with h := 0x01, l := 0x10 } (word 0x13 0xEE 0xEEEE))) =
    some ({ mixed with h := 0x01, l := 0x10 }, .ok (.val16 0x0110), false) := by decide

/-- V25. -/
theorem test_setHL : seen (step (given mixed (word 0x1B 0x99 0x8001))) =
    some ({ mixed with h := 0x80, l := 0x01 }, .ok .none, false) := by decide

/-- W8. -/
theorem test_readSP : seen (step (given { mixed with sp := 0xF94A } (word 0x20 0xEE 0xEEEE))) =
    some ({ mixed with sp := 0xF94A }, .ok (.val16 0xF94A), false) := by decide

/-- V40. -/
theorem test_setSP : seen (step (given mixed (word 0x28 0xEE 0xFFFF))) =
    some ({ mixed with sp := 0xFFFF }, .ok .none, false) := by decide

/-- V43. -/
theorem test_readPC : seen (step (given { mixed with pc := 0x0150 } (word 0x21 0xEE 0xEEEE))) =
    some ({ mixed with pc := 0x0150 }, .ok (.val16 0x0150), false) := by decide

/-- V42. -/
theorem test_setPC : seen (step (given mixed (word 0x29 0xEE 0xFFFF))) =
    some ({ mixed with pc := 0xFFFF }, .ok .none, false) := by decide

/-- V11: all eight bits of F are kept. -/
theorem test_setF_keeps_low_bits : seen (step (given zero (word 0x0D 0x0F 0))) =
    some ({ zero with f := 0x0F }, .ok (.val8 0x0F), false) := by decide

/-- V12: SET_L answers L, never F. -/
theorem test_setL_answers_L : seen (step (given { zero with f := 0xC3 } (word 0x0F 0x5A 0))) =
    some ({ zero with f := 0xC3, l := 0x5A }, .ok (.val8 0x5A), false) := by decide

/-! ### Reserved words, reset and idle steps (V50 to V59) -/

/-- V51: the would-be pair write is not done. -/
theorem test_reserved_pair_set :
    seen (step (given { zero with a := 0x42 } (word 0x1C 0 0xFFFF))) =
      some ({ zero with a := 0x42 }, .fault (.illegalCommand 0x1C), true) := by decide

/-- V53. -/
theorem test_reserved_direct_set :
    seen (step (given { zero with sp := 0x1000 } (word 0x2F 0 0))) =
      some ({ zero with sp := 0x1000 }, .fault (.illegalCommand 0x2F), true) := by decide

/-- V56: the SET_A is discarded. -/
theorem test_reset_discards_a_command :
    seen (step (given { zero with a := 0x42, sp := 0x1000 }
      { word 0x08 0x99 0 with rst := true })) = some (zero, .ok .none, false) := by decide

/-- V57: reset comes before IllegalCommand. -/
theorem test_reset_before_illegal :
    seen (step (given { zero with a := 0x42 } { word 0x30 0 0 with rst := true })) =
      some (zero, .ok .none, false) := by decide

/-- V58: idle. -/
theorem test_idle :
    seen (step (given { zero with a := 0x42 } { word 0x08 0x99 0 with cmdValid := false })) =
      some ({ zero with a := 0x42 }, .ok .none, false) := by decide

/-- R152: a reset step does not clear the fault mark. -/
theorem test_reset_keeps_the_mark :
    seen (step { given mixed { word 0x08 0x99 0 with rst := true } with faultMark := true }) =
      some (zero, .ok .none, true) := by decide

/-- The command placed after reset is the one the next step runs. -/
theorem test_withFetchWord_runs :
    seen (step (State.reset.withFetchWord 8 0x21)) = some (zero, .ok (.val16 0x0000), false) := by
  decide

/-! ### Witnesses: every statement with hypotheses has a state that meets them -/

theorem witness_decode_legal : decode 0x1B#6 = .legal .setHL := by decide

theorem witness_fields_class_00 :
    (0x0F#6 : Cmd).extractLsb' 4 2 = 0b00#2 ∧ r8List[(0x0F#6 : Cmd).extractLsb' 0 3 |>.toNat]? =
      some .l := by decide

theorem witness_fields_class_01 :
    (0x1B#6 : Cmd).extractLsb' 4 2 = 0b01#2 ∧ pairList[(0x1B#6 : Cmd).extractLsb' 0 3 |>.toNat]? =
      some .hl := by decide

theorem witness_fields_class_10 :
    (0x29#6 : Cmd).extractLsb' 4 2 = 0b10#2 ∧ directList[(0x29#6 : Cmd).extractLsb' 0 3 |>.toNat]? =
      some .pc := by decide

theorem witness_fields_reserved :
    ((0x14#6 : Cmd).extractLsb' 4 2 = 0b01#2 ∧ 4 ≤ ((0x14#6 : Cmd).extractLsb' 0 3).toNat) ∧
    ((0x22#6 : Cmd).extractLsb' 4 2 = 0b10#2 ∧ 2 ≤ ((0x22#6 : Cmd).extractLsb' 0 3).toNat) ∧
    (0x30#6 : Cmd).extractLsb' 4 2 = 0b11#2 := by decide

theorem witness_listing_lines :
    (Line.read .readPC).wf = true ∧ (Line.set8 .setL 0xFF#8).wf = true ∧
      (Line.set16 .setSP 0xFFFF#16).wf = true := by decide

theorem witness_legal_step :
    (given mixed (word 0x29 0 0xFFFF)).input.rst = false ∧
    (given mixed (word 0x29 0 0xFFFF)).input.cmdValid = true ∧
    decode (given mixed (word 0x29 0 0xFFFF)).input.cmd = .legal .setPC := by decide

/-- A reset step; it answers a next state, so the reads' "after a reset step" clauses have a case. -/
theorem witness_reset_step :
    (given mixed { word 0x30 0 0 with rst := true }).input.rst = true ∧
      (seen (step (given mixed { word 0x30 0 0 with rst := true }))).isSome = true := by decide

/-- Two writes and a read, three steps of an owner's list. -/
theorem witness_listed_run :
    3 ≤ ({ given mixed (word 0x08 1 0) with
      pending := [word 0x18 0 2, word 0x10 0 0] } : State).pending.length + 1 := by decide

theorem witness_idle_steps :
    let s : State := { given mixed { word 0x3F 1 2 with cmdValid := false } with
      pending := [StepInput.idle] }
    2 ≤ s.pending.length + 1 ∧ ∀ x ∈ sampled 2 s, x.rst = false ∧ x.cmdValid = false := by decide

theorem witness_reserved_step :
    (given mixed (word 0x2A 0 0)).input.rst = false ∧
    (given mixed (word 0x2A 0 0)).input.cmdValid = true ∧
    Cmd.reserved (given mixed (word 0x2A 0 0)).input.cmd = true := by decide

/-- Two reserved words one after the other: every hypothesis, the last clause's too. -/
theorem witness_fault_then_fault :
    let s : State := { given mixed (word 0x14 0 0) with pending := [word 0x3F 0 0] }
    s.input.rst = false ∧ s.input.cmdValid = true ∧ Cmd.reserved s.input.cmd = true ∧
      s.pending = [word 0x3F 0 0] ∧ (word 0x3F 0 0).isIllegal = true := by decide

/-- One state for each branch of the priority chain. -/
theorem witness_priority_branches :
    ((given mixed { word 0x14 0 0 with rst := true }).input.cmdValid = true ∧
      (given mixed { word 0x14 0 0 with rst := true }).input.rst = true) ∧
    ((given mixed (word 0x14 0 0)).input.cmdValid = true ∧
      (given mixed (word 0x14 0 0)).input.rst = false ∧ Cmd.reserved 0x14#6 = true) ∧
    ((given mixed (word 0x13 0 0)).input.cmdValid = true ∧
      (given mixed (word 0x13 0 0)).input.rst = false ∧ Cmd.reserved 0x13#6 = false) := by decide

theorem witness_results :
    ({ State.reset with result := .ok (.val8 0xFF) } : State).result = .ok (.val8 0xFF#8) ∧
    ({ State.reset with result := .ok (.val16 0xFFFF) } : State).result = .ok (.val16 0xFFFF#16) ∧
    State.reset.result = .ok .none ∧
    ({ State.reset with result := .fault (.illegalCommand 0x3F) } : State).result =
      .fault (.illegalCommand 0x3F#6) := by decide

/-- The datum is the value the cell, pair or direct cell already holds. -/
theorem witness_datum_already_held :
    (given mixed (word 0x08 0xE1 0)).input.wdata8 = mixed.a ∧
    (given mixed (word 0x18 0 0xE1E6)).input.wdata16 = cat mixed.a mixed.f ∧
    (given mixed (word 0x28 0 0xE9E9)).input.wdata16 = mixed.sp := by decide

/-- The pair reads' corner cases: high cell 0x00, and both cells 0xFF. -/
theorem witness_pair_corners :
    (given { mixed with h := 0x00 } (word 0x13 0 0)).rf.h = 0x00#8 ∧
    (given { mixed with h := 0xFF, l := 0xFF } (word 0x13 0 0)).rf.h = 0xFF#8 ∧
    (given { mixed with h := 0xFF, l := 0xFF } (word 0x13 0 0)).rf.l = 0xFF#8 := by decide

/-- A cell in its pair, high and low, and a pair without it. -/
theorem witness_pair_of_a_cell :
    Reg8.a = hiCell .af ∧ Reg8.f = loCell .af ∧ Reg8.a ≠ hiCell .bc ∧ Reg8.a ≠ loCell .bc ∧
      Reg8.l ≠ Reg8.h ∧ Pair.hl ≠ Pair.de := by decide

/-- SET_L, a SET_H and a reserved word between, READ_L. -/
theorem witness_read_back8 :
    let s : State := { given mixed (word 0x0F 0x5A 0) with
      pending := [word 0x0E 1 0, word 0x14 0 0, word 0x07 0 0] }
    s.input = word 0x0F 0x5A 0 ∧
    s.pending = [word 0x0E 1 0, word 0x14 0 0] ++ word 0x07 0 0 :: [] ∧
    (word 0x0F 0x5A 0).legalCommand = some (Instr.set8 .l) ∧
    (∀ m ∈ [word 0x0E 1 0, word 0x14 0 0], m.writes8 .l = false) ∧
    (word 0x07 0 0).legalCommand = some (Instr.read8 .l) := by decide

/-- SET_PC, a SET_SP and an idle step between, READ_PC. -/
theorem witness_read_back_direct :
    let s : State := { given mixed (word 0x29 0 0xFFFF) with
      pending := [word 0x28 0 1, StepInput.idle, word 0x21 0 0] }
    s.input = word 0x29 0 0xFFFF ∧
    s.pending = [word 0x28 0 1, StepInput.idle] ++ word 0x21 0 0 :: [] ∧
    (word 0x29 0 0xFFFF).legalCommand = some (Instr.setDirect .pc) ∧
    (∀ m ∈ [word 0x28 0 1, StepInput.idle], m.writesD .pc = false) ∧
    (word 0x21 0 0).legalCommand = some (Instr.readDirect .pc) := by decide

/-- SET_BC, a SET_DE and a READ_B between, READ_BC. -/
theorem witness_pair_round_trip :
    let s : State := { given mixed (word 0x19 0 0x8001) with
      pending := [word 0x1A 0 0xFFFF, word 0x01 0 0, word 0x11 0 0] }
    s.input = word 0x19 0 0x8001 ∧
    s.pending = [word 0x1A 0 0xFFFF, word 0x01 0 0] ++ word 0x11 0 0 :: [] ∧
    (word 0x19 0 0x8001).legalCommand = some (Instr.set16 .bc) ∧
    (∀ m ∈ [word 0x1A 0 0xFFFF, word 0x01 0 0],
      m.writes8 (hiCell .bc) = false ∧ m.writes8 (loCell .bc) = false) ∧
    (word 0x11 0 0).legalCommand = some (Instr.read16 .bc) := by decide

/-- Cells outside a pair, and another pair. -/
theorem witness_cells_outside_a_pair :
    Reg8.a ≠ hiCell .hl ∧ Reg8.a ≠ loCell .hl ∧ Pair.af ≠ Pair.hl := by decide

/-- A SET_PC step and a SET_SP step, each of which must keep the other cell. -/
theorem witness_sp_pc_step :
    (given mixed (word 0x29 0 0)).input.rst = false ∧
    (given mixed (word 0x29 0 0)).input.legalCommand ≠ some .setSP ∧
    (given mixed (word 0x28 0 0)).input.legalCommand ≠ some .setPC ∧
    (seen (step (given mixed (word 0x29 0 0)))).isSome = true ∧
    (seen (step (given mixed (word 0x28 0 0)))).isSome = true := by decide

/-- A SET_A step must keep F, and a READ_A must not answer it. -/
theorem witness_flags_step :
    (given mixed (word 0x08 0 0)).input.rst = false ∧
    (given mixed (word 0x08 0 0)).input.legalCommand ≠ some .setF ∧
    (given mixed (word 0x08 0 0)).input.legalCommand ≠ some .setAF ∧
    (seen (step (given mixed (word 0x08 0 0)))).isSome = true ∧
    Instr.readA ≠ .readF ∧ Instr.readA ≠ .readAF := by decide

theorem witness_cells_a_command_does_not_write :
    Instr.setAF ∉ writers8 .b ∧ Instr.setAF ∉ writersD .sp := by decide

theorem witness_read_has_no_datum : Instr.readL.datumPort = none := by decide

/-- Equal cells and an equal wdata8, or wdata16, with the other port's input different. -/
theorem witness_unused_write_data :
    (given mixed (word 0x08 0x11 0x0000)).rf = (given mixed (word 0x08 0x11 0xFFFF)).rf ∧
    Instr.setA.datumPort = some .p8 ∧
    (given mixed (word 0x08 0x11 0x0000)).input.wdata8 =
      (given mixed (word 0x08 0x11 0xFFFF)).input.wdata8 ∧
    Instr.setHL.datumPort = some .p16 ∧
    (given mixed (word 0x1B 0x00 0xFFFF)).input.wdata16 =
      (given mixed (word 0x1B 0xFF 0xFFFF)).input.wdata16 := by decide

/-- Two different machines that look the same: wdata16 on a SET_A, and a step after it. -/
theorem witness_same_visible :
    let s : State := { given mixed (word 0x08 0x11 0x0000) with pending := [word 0x00 1 1] }
    let s' : State := { given mixed (word 0x08 0x11 0xFFFF) with pending := [word 0x00 2 2] }
    s ≠ s' ∧ s.visible = s'.visible := by decide

/-- A step that faults: the premise of the clause about a fault at the output, and of the sticky one. -/
theorem witness_step_that_faults :
    seen (step { given mixed (word 0x3F 0 0) with faultMark := true }) =
      some (mixed, .fault (.illegalCommand 0x3F), true) := by decide

/-- A clean owner with two steps to come, one of them a write. -/
theorem witness_clean_owner :
    let s : State := { given mixed (word 0x1B 0 0xFFFF) with pending := [word 0x13 0 0] }
    (s.faultMark = false ∧ ∀ x ∈ s.input :: s.pending, x.isIllegal = false) ∧
      (seen (step s)).isSome = true := by decide

end Sys2Proof.Tests
end

namespace Sys2Proof.Machine

/-- Because `step_next` needs no premise on the state, it chains along a run of any length. -/
theorem run_next (n : Nat) (s : State) : ∃ t, run n s = .next t := by
  induction n generalizing s with
  | zero => exact ⟨s, run_zero s⟩
  | succ n ih =>
    obtain ⟨u, hstep, -⟩ := step_next s
    rw [run_succ_of_step n hstep]
    exact ih u.advance

/-- Settles O14, by induction on the number of steps: each step answers a next state, a reserved
word's step too (60_exceptions R152). -/
theorem noRunStops : Obligations.NoRunStops := run_next

end Sys2Proof.Machine

namespace Sys2Proof.Machine

/-! ### Further rules of the cells -/

@[simp] theorem RegFile.set8_set8_same (rf : RegFile) (r : Reg8) (v w : Byte) :
    (rf.set8 r v).set8 r w = rf.set8 r w := by
  cases r <;> rfl

theorem RegFile.set8_comm (rf : RegFile) {r q : Reg8} (v w : Byte) (h : q ≠ r) :
    (rf.set8 r v).set8 q w = (rf.set8 q w).set8 r v := by
  cases r <;> cases q <;> simp [RegFile.set8] at h ⊢

theorem RegFile.set8_setD (rf : RegFile) (r : Reg8) (d : Direct) (v : Byte) (w : Word) :
    (rf.setD d w).set8 r v = (rf.set8 r v).setD d w := by
  cases d <;> cases r <;> rfl

theorem RegFile.getPair_set8_ne (rf : RegFile) (r : Reg8) (p : Pair) (v : Byte)
    (hhi : hiCell p ≠ r) (hlo : loCell p ≠ r) : (rf.set8 r v).getPair p = rf.getPair p := by
  rw [RegFile.getPair, RegFile.getPair, RegFile.get8_set8_ne _ _ _ _ hhi,
    RegFile.get8_set8_ne _ _ _ _ hlo]

@[simp] theorem RegFile.getPair_reset (p : Pair) : RegFile.reset.getPair p = 0x0000#16 := by
  rw [RegFile.getPair, RegFile.get8_reset, RegFile.get8_reset]
  rfl

/-- Settles O8: every cell of the reset register file is zero, so every pair view composed of two of
them is zero too (10_state R38). -/
theorem resetStateIsAllZero : Obligations.ResetStateIsAllZero :=
  ⟨rfl, rfl, rfl, rfl, rfl, rfl, rfl, rfl, rfl, rfl, RegFile.getPair_reset, rfl⟩

/-! ### The set commands are the writers R37 lists -/

theorem set8_mem_writers8 (r : Reg8) : Instr.set8 r ∈ writers8 r := by
  cases r <;> decide

theorem set16_mem_writers8_hiCell (p : Pair) : Instr.set16 p ∈ writers8 (hiCell p) := by
  cases p <;> decide

theorem set16_mem_writers8_loCell (p : Pair) : Instr.set16 p ∈ writers8 (loCell p) := by
  cases p <;> decide

theorem setDirect_mem_writersD (d : Direct) : Instr.setDirect d ∈ writersD d := by
  cases d <;> decide

/-- A cell that R37 does not list under a command is none of the cells the command's own write
names, so that write leaves it. -/
theorem exec_keeps_unlisted_cells (i : Instr) (s : State) : ∃ rf resp,
    exec i s = .next ((s.withRf rf).respond resp) ∧
    (∀ r, i ∉ writers8 r → rf.get8 r = s.rf.get8 r) ∧
    (∀ d, i ∉ writersD d → rf.getD d = s.rf.getD d) := by
  obtain ⟨r, rfl⟩ | ⟨r, rfl⟩ | ⟨p, rfl⟩ | ⟨p, rfl⟩ | ⟨d, rfl⟩ | ⟨d, rfl⟩ := instr_kind i
  · exact ⟨s.rf, _, exec_read8 r s, fun _ _ => rfl, fun _ _ => rfl⟩
  · refine ⟨_, _, (exec_set8 r s).trans (setCell8_eq r s), fun q hq => ?_, fun _ _ => by simp⟩
    have hne : q ≠ r := fun h => hq (h ▸ set8_mem_writers8 r)
    exact RegFile.get8_set8_ne _ _ _ _ hne
  · exact ⟨s.rf, _, exec_read16 p s, fun _ _ => rfl, fun _ _ => rfl⟩
  · refine ⟨_, _, exec_set16 p s, fun q hq => ?_, fun _ _ => by simp⟩
    have hhi : q ≠ hiCell p := fun h => hq (h ▸ set16_mem_writers8_hiCell p)
    have hlo : q ≠ loCell p := fun h => hq (h ▸ set16_mem_writers8_loCell p)
    exact RegFile.get8_setPair_ne _ _ _ _ hhi hlo
  · exact ⟨s.rf, _, exec_readDirect d s, fun _ _ => rfl, fun _ _ => rfl⟩
  · refine ⟨_, _, exec_setDirect d s, fun _ _ => by simp, fun q hq => ?_⟩
    have hne : q ≠ d := fun h => hq (h ▸ setDirect_mem_writersD d)
    exact RegFile.getD_setD_ne _ _ _ _ hne

/-- Settles O35: what exec answers differs from the state before it in RF and the response alone,
and in RF in the listed cells alone (10_state R37). -/
theorem commandWritesOnlyItsCells : Obligations.CommandWritesOnlyItsCells := by
  intro i s
  obtain ⟨rf, resp, hexec, h8, hD⟩ := exec_keeps_unlisted_cells i s
  exact ⟨_, hexec, h8, hD, rfl, rfl, rfl⟩

/-! ### F as plain storage (10_state R34) -/

theorem legalCommand_of_decode {x : StepInput} {i : Instr} (hrst : x.rst = false)
    (hvalid : x.cmdValid = true) (hdec : decode x.cmd = .legal i) : x.legalCommand = some i := by
  simp [StepInput.legalCommand, hrst, hvalid, hdec]

/-- A step writes no cell but on a reset or by a command that R37 lists for the cell. -/
theorem step_keeps_get8 {s t : State} (r : Reg8) (hstep : step s = .next t)
    (hrst : s.input.rst = false) (hcmd : ∀ i ∈ writers8 r, s.input.legalCommand ≠ some i) :
    t.rf.get8 r = s.rf.get8 r := by
  obtain ⟨h, -⟩ | ⟨-, -, rfl⟩ | ⟨-, -, cmd, -, rfl⟩ | ⟨-, hvalid, i, u, hdec, hexec, rfl⟩ :=
    step_cases hstep
  · exact absurd (hrst.symm.trans h) Bool.false_ne_true
  · simp
  · simp
  · obtain ⟨rf, resp, hshape, h8, -⟩ := exec_keeps_unlisted_cells i s
    obtain rfl : (s.withRf rf).respond resp = u := by simpa [hexec] using hshape.symm
    have hi : i ∉ writers8 r := fun h =>
      hcmd i h (legalCommand_of_decode hrst hvalid hdec)
    simpa using h8 r hi

/-- Register files alike but for the cell r stay so under one and the same 8-bit write. -/
theorem RegFile.alike_off_set8 {x y : RegFile} {r : Reg8} {z : Byte}
    (h : x.set8 r z = y.set8 r z) (q : Reg8) (v : Byte) :
    (x.set8 q v).set8 r z = (y.set8 q v).set8 r z := by
  by_cases hq : r = q
  · subst hq
    rw [RegFile.set8_set8_same, RegFile.set8_set8_same, h]
  · rw [RegFile.set8_comm x v z hq, RegFile.set8_comm y v z hq, h]

/-- The only commands whose answer looks at F are READ_F and READ_AF; writes store their datum and
look at no cell. -/
theorem exec_ignores_f (i : Instr) (s : State) (x z : Byte) (hF : i ≠ .readF) (hAF : i ≠ .readAF) :
    ∃ t u, exec i s = .next t ∧ exec i (s.withRf (s.rf.set8 .f x)) = .next u ∧
      u.result = t.result ∧ u.rf.set8 .f z = t.rf.set8 .f z := by
  have alike : (s.rf.set8 .f x).set8 .f z = s.rf.set8 .f z := RegFile.set8_set8_same ..
  obtain ⟨r, rfl⟩ | ⟨r, rfl⟩ | ⟨p, rfl⟩ | ⟨p, rfl⟩ | ⟨d, rfl⟩ | ⟨d, rfl⟩ := instr_kind i
  · have hr : r ≠ .f := fun h => hF (h ▸ rfl)
    refine ⟨_, _, exec_read8 r _, exec_read8 r _, ?_, alike⟩
    simp [RegFile.get8_set8_ne _ _ _ _ hr]
  · exact ⟨_, _, (exec_set8 r _).trans (setCell8_eq r _), (exec_set8 r _).trans (setCell8_eq r _),
      rfl, RegFile.alike_off_set8 alike r _⟩
  · have hp : p ≠ .af := fun h => hAF (h ▸ rfl)
    have hhi : hiCell p ≠ .f := by cases p <;> decide
    have hlo : loCell p ≠ .f := by
      cases p with
      | af => exact absurd rfl hp
      | bc | de | hl => decide
    refine ⟨_, _, exec_read16 p _, exec_read16 p _, ?_, alike⟩
    simp [RegFile.getPair_set8_ne _ _ _ _ hhi hlo]
  · exact ⟨_, _, exec_set16 p _, exec_set16 p _, rfl,
      RegFile.alike_off_set8 (RegFile.alike_off_set8 alike _ _) _ _⟩
  · refine ⟨_, _, exec_readDirect d _, exec_readDirect d _, ?_, alike⟩
    simp
  · refine ⟨_, _, (exec_setDirect d _).trans (setDirect_eq d _),
      (exec_setDirect d _).trans (setDirect_eq d _), rfl, ?_⟩
    simp [RegFile.set8_setD]

/-- Settles O34: R37 lists SET_F and SET_AF for F, so the frame of a step keeps F through every
other; and F alone makes no difference to any command but the two that read it. -/
theorem flagsByteIsPlainStorage : Obligations.FlagsByteIsPlainStorage := by
  refine ⟨fun s t hstep hrst hF hAF => ?_, fun i s x hF hAF => exec_ignores_f i s x 0x00#8 hF hAF⟩
  exact step_keeps_get8 .f hstep hrst (by simp [writers8, hF, hAF])

/-! ### Every register file is reachable -/

theorem decode_encode (i : Instr) : decode (encode i) = .legal i := by
  cases i <;> decide

theorem step_of_command {s u : State} {i : Instr} {x : Byte} {v : Word}
    (hin : s.input = StepInput.command i x v) (hexec : exec i s = .next u) :
    step s = .next u.advance := by
  simp [step, cycle, hin, StepInput.command, decode_encode, hexec]

/-- The owner has a list of steps that takes the cells from rf to rf' with no fault, whatever else
the state holds. -/
def OwnerBrings (rf rf' : RegFile) : Prop :=
  ∃ (n : Nat) (first : StepInput) (more : List StepInput), ∀ s : State,
    s.rf = rf → s.input = first → s.pending = more → s.good = true →
    ∃ t, run n s = .next t ∧ t.rf = rf' ∧ t.good = true

theorem OwnerBrings.refl (rf : RegFile) : OwnerBrings rf rf :=
  ⟨0, StepInput.idle, [], fun s hrf _ _ hgood => ⟨s, rfl, hrf, hgood⟩⟩

/-- A command that takes the cells from rf to mid may be presented before any steps that bring them
from mid to rf'. -/
theorem OwnerBrings.of_exec {rf mid rf' : RegFile} {i : Instr} {x : Byte} {v : Word} {r : Response}
    (hexec : ∀ s : State, s.rf = rf → s.input = StepInput.command i x v →
      exec i s = .next ((s.withRf mid).respond r))
    (h : OwnerBrings mid rf') : OwnerBrings rf rf' := by
  obtain ⟨n, first, more, hrun⟩ := h
  refine ⟨n + 1, StepInput.command i x v, first :: more, fun s hrf hin hpend hgood => ?_⟩
  have hstep := step_of_command hin (hexec s hrf hin)
  rw [run_succ_of_step n hstep]
  apply hrun
  · simp
  · exact State.advance_input_cons _ _ _ hpend
  · exact State.advance_pending_cons _ _ _ hpend
  · simpa [State.good] using hgood

theorem OwnerBrings.of_set8 {rf rf' : RegFile} (r : Reg8) (x : Byte)
    (h : OwnerBrings (rf.set8 r x) rf') : OwnerBrings rf rf' := by
  refine h.of_exec (i := Instr.set8 r) (x := x) (v := 0#16) (r := .val8 x) fun s hrf hin => ?_
  rw [exec_set8, setCell8_eq, hrf, hin]
  rfl

theorem OwnerBrings.of_setD {rf rf' : RegFile} (d : Direct) (v : Word)
    (h : OwnerBrings (rf.setD d v) rf') : OwnerBrings rf rf' := by
  refine h.of_exec (i := Instr.setDirect d) (x := 0#8) (v := v) (r := .none) fun s hrf hin => ?_
  rw [exec_setDirect, setDirect_eq, hrf, hin]
  rfl

/-- A write to each of the ten cells leaves nothing of the old register file. -/
theorem RegFile.set_every_cell (rf x : RegFile) :
    ((rf.set8 .a x.a |>.set8 .b x.b |>.set8 .c x.c |>.set8 .d x.d |>.set8 .e x.e |>.set8 .f x.f
      |>.set8 .h x.h |>.set8 .l x.l).setD .sp x.sp).setD .pc x.pc = x := by
  simp only [RegFile.set8, RegFile.setD]

theorem ownerBrings_any (rf rf' : RegFile) : OwnerBrings rf rf' := by
  refine .of_set8 .a rf'.a <| .of_set8 .b rf'.b <| .of_set8 .c rf'.c <| .of_set8 .d rf'.d <|
  .of_set8 .e rf'.e <| .of_set8 .f rf'.f <| .of_set8 .h rf'.h <| .of_set8 .l rf'.l <|
  .of_setD .sp rf'.sp <| .of_setD .pc rf'.pc ?_
  rw [RegFile.set_every_cell]
  exact .refl rf'

/-- Settles O44, by the ten set commands, presented one after the other from reset (10_state R33). -/
theorem everyRegisterFileIsReachable : Obligations.EveryRegisterFileIsReachable := by
  intro rf
  obtain ⟨n, first, more, hrun⟩ := ownerBrings_any RegFile.reset rf
  obtain ⟨t, hrun, hrf, hgood⟩ :=
    hrun { State.reset with input := first, pending := more } rfl rfl rfl rfl
  exact ⟨n, first, more, t, hrun, hrf, hgood⟩

end Sys2Proof.Machine

namespace Sys2Proof.Machine

/-! ### Writing a cell twice, and reading pairs by halves -/

@[simp] theorem RegFile.setPair_setPair_same (rf : RegFile) (p : Pair) (v : Word) :
    (rf.setPair p v).setPair p v = rf.setPair p v := by
  have hne : hiCell p ≠ loCell p := hiCell_ne_loCell p
  simp only [RegFile.setPair]
  rw [RegFile.set8_comm _ _ _ hne, RegFile.set8_set8_same, RegFile.set8_set8_same]

@[simp] theorem RegFile.setD_setD_same (rf : RegFile) (d : Direct) (v w : Word) :
    (rf.setD d v).setD d w = rf.setD d w := by
  cases d <;> rfl

theorem datumPort_set8 (r : Reg8) : (Instr.set8 r).datumPort = some .p8 := by
  cases r <;> rfl

theorem datumPort_set16 (p : Pair) : (Instr.set16 p).datumPort = some .p16 := by
  cases p <;> rfl

theorem datumPort_setDirect (d : Direct) : (Instr.setDirect d).datumPort = some .p16 := by
  cases d <;> rfl

/-- Settles O36, by kind of command: a read responds and does nothing else, and a set command's
second write of the same datum finds it in place (20_memory R57). -/
theorem readsArePureAndWritesIdempotent : Obligations.ReadsArePureAndWritesIdempotent := by
  intro i s
  obtain ⟨r, rfl⟩ | ⟨r, rfl⟩ | ⟨p, rfl⟩ | ⟨p, rfl⟩ | ⟨d, rfl⟩ | ⟨d, rfl⟩ := instr_kind i
  · exact ⟨_, exec_read8 r s, exec_read8 r _, fun _ => rfl⟩
  · refine ⟨_, (exec_set8 r s).trans (setCell8_eq r s), ?_, by simp [datumPort_set8]⟩
    simp [exec_set8, State.withRf, State.respond]
  · exact ⟨_, exec_read16 p s, exec_read16 p _, fun _ => rfl⟩
  · refine ⟨_, (exec_set16 p s).trans (setPair_eq p s), ?_, by simp [datumPort_set16]⟩
    simp [exec_set16, State.withRf, State.respond]
  · exact ⟨_, exec_readDirect d s, exec_readDirect d _, fun _ => rfl⟩
  · refine ⟨_, (exec_setDirect d s).trans (setDirect_eq d s), ?_, by simp [datumPort_setDirect]⟩
    simp [exec_setDirect, State.withRf, State.respond]

/-! ### What a step leaves in a cell (20_memory R59) -/

theorem compose_eq_cat (hi lo : Byte) : compose hi lo = Claims.cat hi lo := by
  rw [compose, Claims.cat, BitVec.append_def, BitVec.shiftLeftZeroExtend_eq, BitVec.setWidth'_eq]

theorem highByte_eq_extractLsb' (v : Word) : highByte v = v.extractLsb' 8 8 :=
  BitVec.setWidth_ushiftRight_eq_extractLsb

theorem lowByte_eq_extractLsb' (v : Word) : lowByte v = v.extractLsb' 0 8 := by
  have hmask : (0x00FF#16).setWidth 8 = BitVec.allOnes 8 := rfl
  rw [lowByte, BitVec.setWidth_and, hmask, BitVec.and_allOnes,
    BitVec.setWidth_eq_extractLsb' (by decide)]

/-- An 8-bit cell has two writers: its own set command and that of the pair it is half of. -/
theorem writers8_eq (r : Reg8) :
    ∃ p, writers8 r = [.set8 r, .set16 p] ∧ (r = hiCell p ∨ r = loCell p) := by
  cases r
  case a => exact ⟨.af, rfl, .inl rfl⟩
  case b => exact ⟨.bc, rfl, .inl rfl⟩
  case c => exact ⟨.bc, rfl, .inr rfl⟩
  case d => exact ⟨.de, rfl, .inl rfl⟩
  case e => exact ⟨.de, rfl, .inr rfl⟩
  case f => exact ⟨.af, rfl, .inr rfl⟩
  case h => exact ⟨.hl, rfl, .inl rfl⟩
  case l => exact ⟨.hl, rfl, .inr rfl⟩

theorem writersD_eq (d : Direct) : writersD d = [.setDirect d] := by
  cases d <;> rfl

section Leaves

variable {x : StepInput} (hrst : x.rst = false)
include hrst

theorem leaves8_set8 (r : Reg8) (hcmd : x.legalCommand = some (.set8 r)) :
    x.leaves8 r = some x.wdata8 := by
  cases r <;> simp [StepInput.leaves8, hrst, hcmd, Instr.set8]

theorem leaves8_set16_hiCell (p : Pair) (hcmd : x.legalCommand = some (.set16 p)) :
    x.leaves8 (hiCell p) = some (highByte x.wdata16) := by
  rw [highByte_eq_extractLsb']
  cases p <;> simp [StepInput.leaves8, hrst, hcmd, Instr.set16, hiCell]

theorem leaves8_set16_loCell (p : Pair) (hcmd : x.legalCommand = some (.set16 p)) :
    x.leaves8 (loCell p) = some (lowByte x.wdata16) := by
  rw [lowByte_eq_extractLsb']
  cases p <;> simp [StepInput.leaves8, hrst, hcmd, Instr.set16, loCell]

theorem leavesD_setDirect (d : Direct) (hcmd : x.legalCommand = some (.setDirect d)) :
    x.leavesD d = some x.wdata16 := by
  cases d <;> simp [StepInput.leavesD, hrst, hcmd, Instr.setDirect]

/-- Every arm of leaves8 that leaves a byte names a writer that R37 lists for the cell. -/
theorem leaves8_eq_none (r : Reg8) (hcmd : ∀ i ∈ writers8 r, x.legalCommand ≠ some i) :
    x.leaves8 r = none := by
  unfold StepInput.leaves8
  rw [if_neg (by simp [hrst])]
  split
  case h_17 => rfl
  all_goals exact absurd ‹_› (hcmd _ (by decide))

theorem leavesD_eq_none (d : Direct) (hcmd : ∀ i ∈ writersD d, x.legalCommand ≠ some i) :
    x.leavesD d = none := by
  unfold StepInput.leavesD
  rw [if_neg (by simp [hrst])]
  split
  case h_3 => rfl
  all_goals exact absurd ‹_› (hcmd _ (by decide))

end Leaves

/-- `leaves` says of every step what it leaves in `cell`: on a reset step the reset value, on a step
with no legal command nothing, and on a legal command what exec leaves there. -/
structure Records {α : Type} (leaves : StepInput → Option α) (cell : RegFile → α) : Prop where
  of_reset : ∀ x : StepInput, x.rst = true → leaves x = some (cell RegFile.reset)
  of_no_command : ∀ x : StepInput, x.rst = false → x.legalCommand = none → leaves x = none
  of_exec : ∀ (i : Instr) (s u : State), s.input.rst = false → s.input.legalCommand = some i →
    exec i s = .next u → cell u.rf = (leaves s.input).getD (cell s.rf)

theorem legalCommand_of_idle {x : StepInput} (hvalid : x.cmdValid = false) :
    x.legalCommand = none := by
  simp [StepInput.legalCommand, hvalid]

theorem legalCommand_of_illegal {x : StepInput} {cmd : Cmd} (hdec : decode x.cmd = .illegal cmd) :
    x.legalCommand = none := by
  simp [StepInput.legalCommand, hdec]

section

variable {α : Type} {leaves : StepInput → Option α} {cell : RegFile → α}

theorem Records.step {s t : State} (h : Records leaves cell) (hstep : step s = .next t) :
    cell t.rf = (leaves s.input).getD (cell s.rf) := by
  obtain ⟨hrst, rfl⟩ | ⟨hrst, hvalid, rfl⟩ | ⟨hrst, -, cmd, hdec, rfl⟩ |
    ⟨hrst, hvalid, i, u, hdec, hexec, rfl⟩ := step_cases hstep
  · simp [h.of_reset _ hrst]
  · simp [h.of_no_command _ hrst (legalCommand_of_idle hvalid)]
  · simp [h.of_no_command _ hrst (legalCommand_of_illegal hdec)]
  · rw [State.advance_rf]
    exact h.of_exec i s u hrst (legalCommand_of_decode hrst hvalid hdec) hexec

theorem latest_append_oldest (v : α) (newer : List StepInput) (x : StepInput) :
    latest leaves v (newer ++ [x]) = latest leaves ((leaves x).getD v) newer := by
  induction newer with
  | nil => rfl
  | cons y ys ih => rw [List.cons_append, latest, latest, ih]

/-- While the owner's list lasts, a run samples the coming step and then what the run from the next
state samples. -/
theorem sampled_succ_advance {s u : State} {n : Nat} (hpend : u.pending = s.pending)
    (hn : n ≤ s.pending.length) : sampled (n + 1) s = s.input :: sampled n u.advance := by
  cases hs : s.pending with
  | nil =>
    obtain rfl : n = 0 := by simpa [hs] using hn
    simp [sampled]
  | cons x rest =>
    rw [hs] at hpend
    rw [sampled, sampled, u.advance_input_cons x rest hpend, u.advance_pending_cons x rest hpend,
      hs, List.take_succ_cons]

/-- By induction on the number of steps: the first step's write is the oldest of the run's, so it is
what the later steps start from. -/
theorem Records.run {n : Nat} {s t : State} (h : Records leaves cell)
    (hn : n ≤ s.pending.length + 1) (hrun : run n s = .next t) :
    cell t.rf = latest leaves (cell s.rf) (sampled n s).reverse := by
  induction n generalizing s with
  | zero =>
    obtain rfl : s = t := by simpa using hrun
    rfl
  | succ n ih =>
    obtain ⟨u, hstep, -, hpend⟩ := step_next s
    rw [run_succ_of_step n hstep] at hrun
    have hlen : n ≤ u.advance.pending.length + 1 := by
      rw [State.advance_pending, List.length_tail, hpend]
      omega
    rw [ih hlen hrun, h.step hstep, sampled_succ_advance hpend (by omega), List.reverse_cons,
      latest_append_oldest]

end

theorem exec_leaves8 (r : Reg8) (i : Instr) (s u : State) (hrst : s.input.rst = false)
    (hcmd : s.input.legalCommand = some i) (hexec : exec i s = .next u) :
    u.rf.get8 r = (s.input.leaves8 r).getD (s.rf.get8 r) := by
  by_cases hi : i ∈ writers8 r
  · obtain ⟨p, hwriters, hhalf⟩ := writers8_eq r
    obtain rfl | rfl : i = .set8 r ∨ i = .set16 p := by simpa [hwriters] using hi
    · rw [exec_set8, setCell8_eq] at hexec
      cases hexec
      simp [leaves8_set8 hrst r hcmd]
    · rw [exec_set16, setPair_eq] at hexec
      cases hexec
      obtain rfl | rfl := hhalf
      · simp [leaves8_set16_hiCell hrst p hcmd, RegFile.get8_setPair_hi]
      · simp [leaves8_set16_loCell hrst p hcmd, RegFile.get8_setPair_lo]
  · obtain ⟨rf, resp, hshape, h8, -⟩ := exec_keeps_unlisted_cells i s
    rw [hexec] at hshape
    cases hshape
    have hnone : s.input.leaves8 r = none :=
      leaves8_eq_none hrst r fun j hj h => hi (Option.some.inj (hcmd.symm.trans h) ▸ hj)
    simp [hnone, h8 r hi]

theorem exec_leavesD (d : Direct) (i : Instr) (s u : State) (hrst : s.input.rst = false)
    (hcmd : s.input.legalCommand = some i) (hexec : exec i s = .next u) :
    u.rf.getD d = (s.input.leavesD d).getD (s.rf.getD d) := by
  by_cases hi : i ∈ writersD d
  · obtain rfl : i = .setDirect d := by simpa [writersD_eq] using hi
    rw [exec_setDirect, setDirect_eq] at hexec
    cases hexec
    simp [leavesD_setDirect hrst d hcmd]
  · obtain ⟨rf, resp, hshape, -, hD⟩ := exec_keeps_unlisted_cells i s
    rw [hexec] at hshape
    cases hshape
    have hnone : s.input.leavesD d = none :=
      leavesD_eq_none hrst d fun j hj h => hi (Option.some.inj (hcmd.symm.trans h) ▸ hj)
    simp [hnone, hD d hi]

theorem records_leaves8 (r : Reg8) : Records (fun x => x.leaves8 r) (fun rf => rf.get8 r) where
  of_reset x hrst := by simp [StepInput.leaves8, hrst]
  of_no_command x hrst hcmd := leaves8_eq_none hrst r (by simp [hcmd])
  of_exec := exec_leaves8 r

theorem records_leavesD (d : Direct) : Records (fun x => x.leavesD d) (fun rf => rf.getD d) where
  of_reset x hrst := by simp [StepInput.leavesD, hrst]
  of_no_command x hrst hcmd := leavesD_eq_none hrst d (by simp [hcmd])
  of_exec := exec_leavesD d

/-- Settles O38: leaves8 and leavesD record what each step leaves in a cell, so after a run the cell
holds the latest of these (20_memory R59), and every read answers the cells as they stand. -/
theorem readsSeeTheLatestWrite : Obligations.ReadsSeeTheLatestWrite := by
  intro n s hn past now8 nowD
  obtain ⟨t, hrun⟩ := run_next n s
  have h8 (r : Reg8) : t.rf.get8 r = now8 r := (records_leaves8 r).run hn hrun
  have hD (d : Direct) : t.rf.getD d = nowD d := (records_leavesD d).run hn hrun
  refine ⟨t, hrun, fun r => ?_, fun p => ?_, fun d => ?_⟩
  · rw [exec_read8, readCell8_eq, h8]
    rfl
  · rw [exec_read16, readPair_eq, RegFile.getPair, compose_eq_cat, h8, h8]
    rfl
  · rw [exec_readDirect, readDirect_eq, hD]
    rfl

end Sys2Proof.Machine

namespace Sys2Proof

/-! ### The decoder, class by class (30_encoding R72 to R76, R81) -/

section Decode

variable {cmd : Cmd}

theorem decode_of_class_00 (hc : cmdClass cmd = 0b00#2) :
    decode cmd = .legal (if cmdWrite cmd then Instr.set8 (reg8OfSel (cmdSel cmd))
      else Instr.read8 (reg8OfSel (cmdSel cmd))) := by
  simp [decode, hc]

theorem decode_of_pair {p : Pair} (hc : cmdClass cmd = 0b01#2)
    (hp : pairOfSel (cmdSel cmd) = some p) :
    decode cmd = .legal (if cmdWrite cmd then Instr.set16 p else Instr.read16 p) := by
  simp [decode, hc, hp]

theorem decode_of_no_pair (hc : cmdClass cmd = 0b01#2) (hp : pairOfSel (cmdSel cmd) = none) :
    decode cmd = .illegal cmd := by
  simp [decode, hc, hp]

theorem decode_of_direct {d : Direct} (hc : cmdClass cmd = 0b10#2)
    (hd : directOfSel (cmdSel cmd) = some d) :
    decode cmd = .legal (if cmdWrite cmd then Instr.setDirect d else Instr.readDirect d) := by
  simp [decode, hc, hd]

theorem decode_of_no_direct (hc : cmdClass cmd = 0b10#2)
    (hd : directOfSel (cmdSel cmd) = none) : decode cmd = .illegal cmd := by
  simp [decode, hc, hd]

theorem decode_of_class_11 (hc : cmdClass cmd = 0b11#2) : decode cmd = .illegal cmd := by
  simp [decode, hc]

end Decode

theorem class_cases : ∀ c : BitVec 2, c = 0b00#2 ∨ c = 0b01#2 ∨ c = 0b10#2 ∨ c = 0b11#2 := by
  decide

theorem r8List_getElem? : ∀ s : BitVec 3, Claims.r8List[s.toNat]? = some (reg8OfSel s) := by
  decide

theorem pairList_getElem? : ∀ s : BitVec 3, Claims.pairList[s.toNat]? = pairOfSel s := by
  decide

theorem directList_getElem? : ∀ s : BitVec 3, Claims.directList[s.toNat]? = directOfSel s := by
  decide

theorem pairOfSel_eq_none_iff : ∀ s : BitVec 3, pairOfSel s = none ↔ 4 ≤ s.toNat := by
  decide

theorem directOfSel_eq_none_iff : ∀ s : BitVec 3, directOfSel s = none ↔ 2 ≤ s.toNat := by
  decide

/-! ### The word of three fields (R72) -/

/-- The command word with the fields CLASS, W and SEL, from bit 5 down to bit 0. -/
def wordOfFields (c : BitVec 2) (w : Bool) (s : BitVec 3) : Cmd := c ++ BitVec.ofBool w ++ s

theorem wordOfFields_fields :
    ∀ cmd : Cmd, wordOfFields (cmdClass cmd) (cmdWrite cmd) (cmdSel cmd) = cmd := by
  decide

theorem toNat_eq_fields : ∀ cmd : Cmd, cmd.toNat =
    16 * (cmdClass cmd).toNat + 8 * (cmdWrite cmd).toNat + (cmdSel cmd).toNat := by
  decide

theorem encode_reg8OfSel : ∀ (w : Bool) (s : BitVec 3),
    encode (if w then Instr.set8 (reg8OfSel s) else Instr.read8 (reg8OfSel s)) =
      wordOfFields 0b00#2 w s := by
  decide

theorem encode_pairOfSel : ∀ (w : Bool) (s : BitVec 3), ∀ p ∈ pairOfSel s,
    encode (if w then Instr.set16 p else Instr.read16 p) = wordOfFields 0b01#2 w s := by
  decide

theorem encode_directOfSel : ∀ (w : Bool) (s : BitVec 3), ∀ d ∈ directOfSel s,
    encode (if w then Instr.setDirect d else Instr.readDirect d) = wordOfFields 0b10#2 w s := by
  decide

/-- In every class a word that decodes to a command has the fields the opcode map gives that
command, and a word is its fields. -/
theorem encode_of_decode {cmd : Cmd} {i : Instr} (h : decode cmd = .legal i) : encode i = cmd := by
  refine Eq.trans ?_ (wordOfFields_fields cmd)
  obtain hc | hc | hc | hc := class_cases (cmdClass cmd)
  · rw [decode_of_class_00 hc] at h
    cases h
    rw [hc, encode_reg8OfSel]
  · cases hp : pairOfSel (cmdSel cmd) with
    | none => cases (decode_of_no_pair hc hp).symm.trans h
    | some p =>
      rw [decode_of_pair hc hp] at h
      cases h
      rw [hc, encode_pairOfSel _ _ p hp]
  · cases hd : directOfSel (cmdSel cmd) with
    | none => cases (decode_of_no_direct hc hd).symm.trans h
    | some d =>
      rw [decode_of_direct hc hd] at h
      cases h
      rw [hc, encode_directOfSel _ _ d hd]
  · cases (decode_of_class_11 hc).symm.trans h

/-- Settles O1: one way by command, the other by the word's class (30_encoding R78, R81). -/
theorem decodeAndEncodeAgree : Obligations.DecodeAndEncodeAgree :=
  ⟨Machine.decode_encode, fun _ _ => encode_of_decode⟩

/-- Settles O2: the selectors answer the s-th entry of R74's, R75's and R76's lists, or nothing past
the list's end. -/
theorem decoderFollowsTheFields : Obligations.DecoderFollowsTheFields := by
  intro cmd c w s
  refine ⟨fun hc => ?_, fun hc p hp => ?_, fun hc d hd => ?_, fun hc hs => ?_, fun hc hs => ?_,
    decode_of_class_11⟩
  · exact ⟨_, r8List_getElem? (cmdSel cmd), decode_of_class_00 hc⟩
  · exact decode_of_pair hc ((pairList_getElem? (cmdSel cmd)).symm.trans hp)
  · exact decode_of_direct hc ((directList_getElem? (cmdSel cmd)).symm.trans hd)
  · exact decode_of_no_pair hc ((pairOfSel_eq_none_iff (cmdSel cmd)).mpr hs)
  · exact decode_of_no_direct hc ((directOfSel_eq_none_iff (cmdSel cmd)).mpr hs)

/-- Settles O3: the seven legal words are the opcode map's own (R78); of the other two, one has a SEL
that names no pair and one has CLASS 11. -/
theorem sampleWordsDecode : Obligations.SampleWordsDecode :=
  ⟨Machine.decode_encode .readA, Machine.decode_encode .readL, Machine.decode_encode .setF,
    Machine.decode_encode .readHL, Machine.decode_encode .setAF, Machine.decode_encode .readPC,
    Machine.decode_encode .setSP, decode_of_no_pair rfl rfl, decode_of_class_11 rfl⟩

/-- The reserved words by their fields (R75, R76, R79). -/
theorem decode_eq_illegal_iff (cmd : Cmd) : decode cmd = .illegal cmd ↔
    (cmdClass cmd = 0b01#2 ∧ 4 ≤ (cmdSel cmd).toNat) ∨
    (cmdClass cmd = 0b10#2 ∧ 2 ≤ (cmdSel cmd).toNat) ∨ cmdClass cmd = 0b11#2 := by
  rw [← pairOfSel_eq_none_iff, ← directOfSel_eq_none_iff]
  obtain hc | hc | hc | hc := class_cases (cmdClass cmd)
  · simp [decode_of_class_00 hc, hc]
  · cases hp : pairOfSel (cmdSel cmd) with
    | none => simp [decode_of_no_pair hc hp, hc]
    | some p => simp [decode_of_pair hc hp, hc]
  · cases hd : directOfSel (cmdSel cmd) with
    | none => simp [decode_of_no_direct hc hd, hc]
    | some d => simp [decode_of_direct hc hd, hc]
  · simp [decode_of_class_11 hc, hc]

/-- Settles O4: the reserved fields, read as numbers, are R79's ranges. -/
theorem exactlyTheReservedWordsAreIllegal : Obligations.ExactlyTheReservedWordsAreIllegal := by
  refine ⟨fun cmd => ?_, by decide⟩
  have hword := toNat_eq_fields cmd
  have hw : (cmdWrite cmd).toNat ≤ 1 := Bool.toNat_le _
  have hs : (cmdSel cmd).toNat < 8 := (cmdSel cmd).isLt
  rw [decode_eq_illegal_iff]
  obtain hc | hc | hc | hc := class_cases (cmdClass cmd) <;> simp [hc] at hword ⊢ <;> omega

/-! ### Listing lines (R84) -/

theorem legalCommand_command (i : Instr) (x : Byte) (v : Word) :
    (StepInput.command i x v).legalCommand = some i :=
  Machine.legalCommand_of_decode rfl rfl (Machine.decode_encode i)

/-- Settles O5: a command line presents the command's word, which decodes to the command again;
its well-formedness is the test of the command's port. -/
theorem listingLineStandsForItsStep : Obligations.ListingLineStandsForItsStep := by
  refine ⟨rfl, ⟨rfl, rfl⟩, fun i hwf => ?_, fun i x hwf => ?_, fun i v hwf => ?_⟩
  · exact ⟨legalCommand_command i _ _, eq_of_beq hwf⟩
  · exact ⟨legalCommand_command i x _, eq_of_beq hwf, rfl⟩
  · exact ⟨legalCommand_command i _ v, eq_of_beq hwf, rfl⟩

end Sys2Proof

namespace Sys2Proof.Machine

/-! ### A step of each kind (30_encoding R83) -/

section StepOf

variable {s : State}

theorem step_of_reset (hrst : s.input.rst = true) : step s = .next s.resetCells.advance := by
  simp [step, cycle, hrst]

variable (hrst : s.input.rst = false)
include hrst

theorem step_of_idle (hvalid : s.input.cmdValid = false) : step s = .next s.idleStep.advance := by
  simp [step, cycle, hrst, hvalid]

variable (hvalid : s.input.cmdValid = true)
include hvalid

theorem step_of_illegal {cmd : Cmd} (hdec : decode s.input.cmd = .illegal cmd) :
    step s = .next (s.raiseIllegalCommand cmd).advance := by
  simp [step, cycle, hrst, hvalid, hdec]

theorem step_of_legal {i : Instr} {u : State} (hdec : decode s.input.cmd = .legal i)
    (hexec : exec i s = .next u) : step s = .next u.advance := by
  simp [step, cycle, hrst, hvalid, hdec, hexec]

end StepOf

/-- Settles O6: exec answers a state that keeps the owner's list, and the step only takes up the
list's next entry. -/
theorem stepRunsTheDecodedCommand : Obligations.StepRunsTheDecodedCommand := by
  intro s i hrst hvalid hdec
  obtain ⟨rf, r, hexec⟩ := exec_shape i s
  exact ⟨_, _, hexec, step_of_legal hrst hvalid hdec hexec, State.advance_rf _,
    State.advance_result _, State.advance_faultMark _, State.advance_input _,
    State.advance_pending _⟩

/-! ### Idle steps (R82) -/

/-- By induction on the number of steps. For the response: an idle step answers nothing, and where
nothing was answered before, further idle steps keep it so. -/
theorem run_of_idle_steps {n : Nat} {s : State} (hn : n ≤ s.pending.length + 1)
    (hidle : ∀ x ∈ sampled n s, x.rst = false ∧ x.cmdValid = false) :
    ∃ t, run n s = .next t ∧ t.rf = s.rf ∧ t.faultMark = s.faultMark ∧
      (0 < n ∨ s.result = .ok .none → t.result = .ok .none) := by
  induction n generalizing s with
  | zero => exact ⟨s, run_zero s, rfl, rfl, by simp⟩
  | succ n ih =>
    have hsampled : sampled (n + 1) s = s.input :: sampled n s.idleStep.advance :=
      sampled_succ_advance rfl (by omega)
    rw [hsampled, List.forall_mem_cons] at hidle
    obtain ⟨⟨hrst, hvalid⟩, hrest⟩ := hidle
    have hlen : n ≤ s.idleStep.advance.pending.length + 1 := by
      rw [State.advance_pending, List.length_tail, State.idleStep_pending]
      omega
    obtain ⟨t, hrun, hrf, hmark, hresult⟩ := ih hlen hrest
    refine ⟨t, (run_succ_of_step n (step_of_idle hrst hvalid)).trans hrun, ?_, ?_, fun _ => ?_⟩
    · simpa using hrf
    · simpa using hmark
    · exact hresult (.inr (by simp))

/-- Settles O9: the run of idle steps that the owner lists, with at least one step for the response. -/
theorem idleStepsChangeNothing : Obligations.IdleStepsChangeNothing := by
  intro n s hn hidle
  obtain ⟨t, hrun, hrf, hmark, hresult⟩ := run_of_idle_steps hn hidle
  exact ⟨t, hrun, hrf, hmark, fun hpos => hresult (.inl hpos)⟩

/-! ### Ignored inputs (R77, R82; 70_reset_and_hazards R170) -/

/-- A read looks at the cells alone, and a set command at the cells and its own port's datum. -/
theorem exec_of_alike (i : Instr) {s s' : State} (hrf : s.rf = s'.rf)
    (h8 : i.datumPort = some .p8 → s.input.wdata8 = s'.input.wdata8)
    (h16 : i.datumPort = some .p16 → s.input.wdata16 = s'.input.wdata16) :
    ∃ rf r, exec i s = .next ((s.withRf rf).respond r) ∧
      exec i s' = .next ((s'.withRf rf).respond r) := by
  obtain ⟨r, rfl⟩ | ⟨r, rfl⟩ | ⟨p, rfl⟩ | ⟨p, rfl⟩ | ⟨d, rfl⟩ | ⟨d, rfl⟩ := instr_kind i
  · exact ⟨s.rf, _, exec_read8 r s, hrf ▸ exec_read8 r s'⟩
  · refine ⟨_, _, (exec_set8 r s).trans (setCell8_eq r s), ?_⟩
    rw [hrf, h8 (datumPort_set8 r)]
    exact (exec_set8 r s').trans (setCell8_eq r s')
  · exact ⟨s.rf, _, exec_read16 p s, hrf ▸ exec_read16 p s'⟩
  · refine ⟨_, _, (exec_set16 p s).trans (setPair_eq p s), ?_⟩
    rw [hrf, h16 (datumPort_set16 p)]
    exact exec_set16 p s'
  · exact ⟨s.rf, _, exec_readDirect d s, hrf ▸ exec_readDirect d s'⟩
  · refine ⟨_, _, (exec_setDirect d s).trans (setDirect_eq d s), ?_⟩
    rw [hrf, h16 (datumPort_setDirect d)]
    exact exec_setDirect d s'

/-- Settles O37: from states alike in the cells and in the command's own datum, exec writes the same
cells and gives the same response. -/
theorem unusedWriteDataIsIgnored : Obligations.UnusedWriteDataIsIgnored := by
  intro i s s' hrf h8 h16
  obtain ⟨rf, r, hexec, hexec'⟩ := exec_of_alike i hrf h8 h16
  exact ⟨_, _, hexec, hexec', rfl, rfl⟩

/-! ### What is left of a step's inputs when the ignored ones are zero -/

section Visible

variable {x : StepInput}

@[simp] theorem visible_idle : StepInput.idle.visible = StepInput.idle := rfl

theorem visible_of_reset (hrst : x.rst = true) :
    x.visible = { StepInput.idle with rst := true } := by
  simp [StepInput.visible, hrst]

variable (hrst : x.rst = false)
include hrst

theorem visible_of_idle (hvalid : x.cmdValid = false) : x.visible = StepInput.idle := by
  simp [StepInput.visible, hrst, hvalid]

variable (hvalid : x.cmdValid = true)
include hvalid

/-- A presented command stays presented: only write data is ignored of it. -/
theorem visible_of_command :
    ∃ y v, x.visible = { x with wdata8 := y, wdata16 := v } ∧
      ∀ i, x.legalCommand = some i →
        (i.datumPort = some .p8 → y = x.wdata8) ∧ (i.datumPort = some .p16 → v = x.wdata16) := by
  cases hdec : decode x.cmd with
  | illegal cmd =>
    refine ⟨0#8, 0#16, by simp [StepInput.visible, hrst, hvalid, hdec], fun i hi => ?_⟩
    simp [legalCommand_of_illegal hdec] at hi
  | legal i =>
    rw [legalCommand_of_decode hrst hvalid hdec]
    cases hport : i.datumPort with
    | none =>
      exact ⟨0#8, 0#16, by simp [StepInput.visible, hrst, hvalid, hdec, hport], by simp [hport]⟩
    | some port =>
      cases port with
      | p8 =>
        exact ⟨x.wdata8, 0#16, by simp [StepInput.visible, hrst, hvalid, hdec, hport], by simp [hport]⟩
      | p16 =>
        exact ⟨0#8, x.wdata16, by simp [StepInput.visible, hrst, hvalid, hdec, hport], by simp [hport]⟩

end Visible

@[simp] theorem State.visible_rf (s : State) : s.visible.rf = s.rf := rfl
@[simp] theorem State.visible_input (s : State) : s.visible.input = s.input.visible := rfl

theorem State.visible_advance (s : State) : s.visible.advance = s.advance.visible := by
  cases hs : s.pending <;> simp [State.visible, State.advance, hs]

/-- The commuting diagram of a step: setting the ignored inputs to zero before it and after it
leaves the same state. -/
theorem step_visible {s t : State} (hstep : step s = .next t) :
    step s.visible = .next t.visible := by
  obtain ⟨hrst, rfl⟩ | ⟨hrst, hvalid, rfl⟩ | ⟨hrst, hvalid, cmd, hdec, rfl⟩ |
    ⟨hrst, hvalid, i, u, hdec, hexec, rfl⟩ := step_cases hstep
  · have hx : s.visible.input.rst = true := by rw [State.visible_input, visible_of_reset hrst]
    rw [step_of_reset hx, ← State.visible_advance]
    rfl
  · have hx : s.visible.input = StepInput.idle := visible_of_idle hrst hvalid
    rw [step_of_idle (by rw [hx]; rfl) (by rw [hx]; rfl), ← State.visible_advance]
    rfl
  · obtain ⟨y, v, hx, -⟩ := visible_of_command hrst hvalid
    rw [← State.visible_input] at hx
    rw [step_of_illegal (by rw [hx, hrst]) (by rw [hx, hvalid]) (by rw [hx, hdec]),
      ← State.visible_advance]
    rfl
  · obtain ⟨y, v, hx, hdatum⟩ := visible_of_command hrst hvalid
    rw [← State.visible_input] at hx
    obtain ⟨h8, h16⟩ := hdatum i (legalCommand_of_decode hrst hvalid hdec)
    obtain ⟨rf, r, hexec_s, hexec_visible⟩ : ∃ rf r,
        exec i s = .next ((s.withRf rf).respond r) ∧
        exec i s.visible = .next ((s.visible.withRf rf).respond r) := by
      refine exec_of_alike i (State.visible_rf s).symm (fun h => ?_) (fun h => ?_)
      · rw [hx, h8 h]
      · rw [hx, h16 h]
    cases hexec.symm.trans hexec_s
    rw [step_of_legal (by rw [hx, hrst]) (by rw [hx, hvalid]) (by rw [hx, hdec]) hexec_visible,
      ← State.visible_advance]
    rfl

theorem run_visible {n : Nat} {s t : State} (hrun : run n s = .next t) :
    run n s.visible = .next t.visible := by
  induction n generalizing s with
  | zero =>
    obtain rfl : s = t := by simpa using hrun
    rfl
  | succ n ih =>
    obtain ⟨u, hstep, -⟩ := step_next s
    rw [run_succ_of_step n hstep] at hrun
    rw [run_succ_of_step n (step_visible hstep)]
    exact ih hrun

/-- Settles O43: the two runs, with the ignored inputs zero, are one and the same run. -/
theorem ignoredInputsNeverShow : Obligations.IgnoredInputsNeverShow := by
  intro n s s' hvisible
  obtain ⟨t, hrun⟩ := run_next n s
  obtain ⟨t', hrun'⟩ := run_next n s'
  have hsame : Host.Outcome.next t.visible = .next t'.visible :=
    calc Host.Outcome.next t.visible
      _ = run n s.visible := (run_visible hrun).symm
      _ = run n s'.visible := by rw [hvisible]
      _ = .next t'.visible := run_visible hrun'
  exact ⟨t, t', hrun, hrun', Host.Outcome.next.inj hsame⟩

/-! ### The output signals (30_encoding R70) -/

section Outputs

variable {s : State}

theorem outputs_of_none (h : s.result = .ok .none) :
    s.rdata8 = none ∧ s.rdata16 = none ∧ s.faultCmd = none := by
  simp [State.rdata8, State.rdata16, State.faultCmd, h]

theorem outputs_of_val8 {v : Byte} (h : s.result = .ok (.val8 v)) :
    s.rdata8 = some v ∧ s.rdata16 = none ∧ s.faultCmd = none := by
  simp [State.rdata8, State.rdata16, State.faultCmd, h]

theorem outputs_of_val16 {v : Word} (h : s.result = .ok (.val16 v)) :
    s.rdata8 = none ∧ s.rdata16 = some v ∧ s.faultCmd = none := by
  simp [State.rdata8, State.rdata16, State.faultCmd, h]

theorem outputs_of_fault {cmd : Cmd} (h : s.result = .fault (.illegalCommand cmd)) :
    s.rdata8 = none ∧ s.rdata16 = none ∧ s.faultCmd = some cmd := by
  simp [State.rdata8, State.rdata16, State.faultCmd, h]

end Outputs

/-- Every result but a 16-bit response leaves P16 without a value, and that one leaves P8 without. -/
theorem rdata8_eq_none_or_rdata16_eq_none (s : State) : s.rdata8 = none ∨ s.rdata16 = none := by
  cases h : s.result with
  | ok r =>
    cases r with
    | none => exact .inl (outputs_of_none h).1
    | val8 v => exact .inr (outputs_of_val8 h).2.1
    | val16 v => exact .inl (outputs_of_val16 h).1
  | fault f =>
    cases f with
    | illegalCommand cmd => exact .inl (outputs_of_fault h).1

/-- Settles O15: each valid bit says whether its data output has a value. -/
theorem outputSignalsShowTheResult : Obligations.OutputSignalsShowTheResult := by
  intro s
  simp only [State.rvalid8, State.rvalid16, State.faultOut]
  refine ⟨fun v h => ?_, fun v h => ?_, fun h => ?_, fun w h => ?_, ?_⟩
  · simp [outputs_of_val8 h]
  · simp [outputs_of_val16 h]
  · simp [outputs_of_none h]
  · simp [outputs_of_fault h]
  · obtain h | h := rdata8_eq_none_or_rdata16_eq_none s <;> simp [h]

end Sys2Proof.Machine

namespace Sys2Proof.Machine

/-! ### The value last set (40_reg8_access R119) -/

theorem legalCommand_eq_some_iff {x : StepInput} {i : Instr} :
    x.legalCommand = some i ↔ x.rst = false ∧ x.cmdValid = true ∧ decode x.cmd = .legal i := by
  refine ⟨fun h => ?_, fun ⟨hrst, hvalid, hdec⟩ => legalCommand_of_decode hrst hvalid hdec⟩
  cases hrst : x.rst with
  | true => simp [StepInput.legalCommand, hrst] at h
  | false =>
    cases hvalid : x.cmdValid with
    | false => simp [legalCommand_of_idle hvalid] at h
    | true =>
      cases hdec : decode x.cmd with
      | illegal cmd => simp [legalCommand_of_illegal hdec] at h
      | legal j => simpa [legalCommand_of_decode hrst hvalid hdec] using h

theorem step_of_legalCommand {s u : State} {i : Instr} (hcmd : s.input.legalCommand = some i)
    (hexec : exec i s = .next u) : step s = .next u.advance := by
  obtain ⟨hrst, hvalid, hdec⟩ := legalCommand_eq_some_iff.mp hcmd
  exact step_of_legal hrst hvalid hdec hexec

/-- A step that R37 does not list as a writer of the cell leaves nothing in it. -/
theorem leaves8_eq_none_of_writes8 {x : StepInput} {r : Reg8} (h : x.writes8 r = false) :
    x.leaves8 r = none := by
  obtain ⟨hrst, hwriters⟩ := Bool.or_eq_false_iff.mp h
  refine leaves8_eq_none hrst r fun i hi hcmd => ?_
  simp [hcmd, hi] at hwriters

/-- A run followed by one more step. -/
theorem run_succ_of_run {n : Nat} {s u t : State} (hrun : run n s = .next u)
    (hstep : step u = .next t) : run (n + 1) s = .next t := by
  induction n generalizing s with
  | zero =>
    obtain rfl : s = u := by simpa using hrun
    exact (run_succ_of_step 0 hstep).trans (run_zero t)
  | succ n ih =>
    obtain ⟨v, hfirst, -⟩ := step_next s
    rw [run_succ_of_step n hfirst] at hrun
    rw [run_succ_of_step (n + 1) hfirst]
    exact ih hrun

/-- After a run that has sampled every step before y, y stands at the input. -/
theorem run_input_of_pending {past rest : List StepInput} {y : StepInput} {s t : State}
    (hpend : s.pending = past ++ y :: rest) (hrun : run (past.length + 1) s = .next t) :
    t.input = y := by
  induction past generalizing s with
  | nil =>
    obtain ⟨u, hstep, -, hkeep⟩ := step_next s
    rw [List.length_nil, run_succ_of_step 0 hstep] at hrun
    cases hrun
    exact u.advance_input_cons y rest (hkeep.trans hpend)
  | cons x past ih =>
    obtain ⟨u, hstep, -, hkeep⟩ := step_next s
    rw [List.length_cons, run_succ_of_step _ hstep] at hrun
    exact ih (u.advance_pending_cons x _ (hkeep.trans hpend)) hrun

section LastWrite

variable {α : Type} {leaves : StepInput → Option α} {cell : RegFile → α}

theorem latest_of_no_write (v : α) {past : List StepInput} (h : ∀ m ∈ past, leaves m = none) :
    latest leaves v past = v := by
  induction past with
  | nil => rfl
  | cons x older ih =>
    obtain ⟨hx, holder⟩ := List.forall_mem_cons.mp h
    rw [latest, hx, ih holder, Option.getD_none]

/-- What the run's first step leaves in the cell is there after further steps that leave nothing in
it: of all the run's writes it is the latest. -/
theorem Records.run_of_last_write (h : Records leaves cell) {mid rest : List StepInput} {v : α}
    {s t : State} (hpend : s.pending = mid ++ rest) (hwrite : leaves s.input = some v)
    (hmid : ∀ m ∈ mid, leaves m = none) (hrun : Machine.run (mid.length + 1) s = .next t) :
    cell t.rf = v := by
  have hsampled : sampled (mid.length + 1) s = s.input :: mid := by simp [sampled, hpend]
  have hlen : mid.length + 1 ≤ s.pending.length + 1 := by simp [hpend]
  rw [h.run hlen hrun, hsampled, List.reverse_cons, latest_append_oldest, hwrite, Option.getD_some]
  exact latest_of_no_write v (by simpa using hmid)

end LastWrite

/-- Settles O24: when READ_X comes to the input, SET_X is still the latest write of the cell, whatever
the steps between did to the others (a reserved word among them is a step like any other: R152). -/
theorem read8AnswersTheValueLastSet : Obligations.Read8AnswersTheValueLastSet := by
  rintro r x y mid rest s rfl hpend hset hmid hread
  obtain ⟨u, hrun⟩ := run_next (mid.length + 1) s
  obtain ⟨hrst, -, -⟩ := legalCommand_eq_some_iff.mp hset
  have hcell : u.rf.get8 r = s.input.wdata8 :=
    (records_leaves8 r).run_of_last_write hpend (leaves8_set8 hrst r hset)
      (fun m hm => leaves8_eq_none_of_writes8 (hmid m hm)) hrun
  have hinput : u.input = y := run_input_of_pending hpend hrun
  have hstep := step_of_legalCommand (hinput ▸ hread) (exec_read8 r u)
  exact ⟨_, run_succ_of_run hrun hstep, by simp [hcell]⟩

/-! ### The 8-bit commands (R101 to R118) -/

@[simp] theorem RegFile.set8_get8_self (rf : RegFile) (r : Reg8) : rf.set8 r (rf.get8 r) = rf := by
  cases r <;> rfl

@[simp] theorem upper_getPair (rf : RegFile) (p : Pair) :
    Claims.upper (rf.getPair p) = rf.get8 (hiCell p) := by
  rw [RegFile.getPair, compose_eq_cat]
  exact BitVec.extractLsb'_append_eq_left

@[simp] theorem lower_getPair (rf : RegFile) (p : Pair) :
    Claims.lower (rf.getPair p) = rf.get8 (loCell p) := by
  rw [RegFile.getPair, compose_eq_cat]
  exact BitVec.extractLsb'_append_eq_right

/-- SET8 by its whole next state: the cell takes the datum, and the datum is the answer. -/
theorem exec_set8_next (r : Reg8) (s : State) : exec (Instr.set8 r) s =
    .next ((s.withRf (s.rf.set8 r s.input.wdata8)).respond (.val8 s.input.wdata8)) :=
  (exec_set8 r s).trans (setCell8_eq r s)

/-- The READ8 rules of a cell, given which half of its pair's datum the pair's set command leaves
in it. -/
theorem readsCell8 (r : Reg8) (p : Pair) (half : Word → Byte)
    (hhalf : ∀ (rf : RegFile) (v : Word), (rf.setPair p v).get8 r = half v) :
    Claims.ReadsCell8 (encode (Instr.read8 r)) (Instr.read8 r) (Instr.set8 r) (Instr.set16 p)
      (fun rf => rf.get8 r) half := by
  have answer {t : State} {v : Byte} (h : t.rf.get8 r = v) :
      exec (Instr.read8 r) t = .next { t with result := .ok (.val8 v) } := by
    rw [exec_read8, readCell8_eq, h]
    rfl
  refine ⟨decode_encode _, rfl, fun s => answer rfl, fun s t hrst hstep => ?_, fun s => ?_,
    fun s => ?_, fun s => ?_⟩
  · cases (step_of_reset hrst).symm.trans hstep
    exact answer (by simp)
  · exact ⟨_, exec_set8_next r s, answer (by simp)⟩
  · exact ⟨_, (exec_set16 p s).trans (setPair_eq p s), answer (by simp [hhalf])⟩
  · exact ⟨_, exec_read8 r s, exec_read8 r _⟩

theorem readsCell8_hiCell (p : Pair) :
    Claims.ReadsCell8 (encode (Instr.read8 (hiCell p))) (Instr.read8 (hiCell p))
      (Instr.set8 (hiCell p)) (Instr.set16 p) (fun rf => rf.get8 (hiCell p)) Claims.upper :=
  readsCell8 _ p _ fun rf v => (rf.get8_setPair_hi p v).trans (highByte_eq_extractLsb' v)

theorem readsCell8_loCell (p : Pair) :
    Claims.ReadsCell8 (encode (Instr.read8 (loCell p))) (Instr.read8 (loCell p))
      (Instr.set8 (loCell p)) (Instr.set16 p) (fun rf => rf.get8 (loCell p)) Claims.lower :=
  readsCell8 _ p _ fun rf v => (rf.get8_setPair_lo p v).trans (lowByte_eq_extractLsb' v)

/-- Settles O16: each of the eight cells is the high or the low half of its pair. -/
theorem read8AnswersItsCell : Obligations.Read8AnswersItsCell :=
  ⟨readsCell8_hiCell .af, readsCell8_hiCell .bc, readsCell8_loCell .bc, readsCell8_hiCell .de,
    readsCell8_loCell .de, readsCell8_loCell .af, readsCell8_hiCell .hl, readsCell8_loCell .hl⟩

/-- The SET8 rules of a cell, given which half of a pair it is and which cell the other half is. -/
theorem setsCell8 (r q : Reg8) (p : Pair) (half other : Word → Byte) (hne : q ≠ r)
    (hhalf : ∀ rf : RegFile, half (rf.getPair p) = rf.get8 r)
    (hother : ∀ rf : RegFile, other (rf.getPair p) = rf.get8 q) :
    Claims.SetsCell8 (encode (Instr.set8 r)) (Instr.set8 r) (fun rf => rf.get8 r)
      (fun rf x => rf.set8 r x) p half other := by
  refine ⟨decode_encode _, rfl, exec_set8_next r, fun s hdatum => ?_, fun s => ?_⟩
  · rw [exec_set8_next, hdatum, RegFile.set8_get8_self]
    rfl
  · refine ⟨_, exec_set8_next r s, ?_, ?_⟩
    · simp [hhalf]
    · simp [hother, RegFile.get8_set8_ne _ _ _ _ hne]

theorem setsCell8_hiCell (p : Pair) :
    Claims.SetsCell8 (encode (Instr.set8 (hiCell p))) (Instr.set8 (hiCell p))
      (fun rf => rf.get8 (hiCell p)) (fun rf x => rf.set8 (hiCell p) x) p
      Claims.upper Claims.lower :=
  setsCell8 _ _ p _ _ (hiCell_ne_loCell p).symm (upper_getPair · p) (lower_getPair · p)

theorem setsCell8_loCell (p : Pair) :
    Claims.SetsCell8 (encode (Instr.set8 (loCell p))) (Instr.set8 (loCell p))
      (fun rf => rf.get8 (loCell p)) (fun rf x => rf.set8 (loCell p) x) p
      Claims.lower Claims.upper :=
  setsCell8 _ _ p _ _ (hiCell_ne_loCell p) (lower_getPair · p) (upper_getPair · p)

/-- Settles O17: each of the eight cells is the high or the low half of its pair. -/
theorem set8StoresAndAnswersItsDatum : Obligations.Set8StoresAndAnswersItsDatum :=
  ⟨setsCell8_hiCell .af, setsCell8_hiCell .bc, setsCell8_loCell .bc, setsCell8_hiCell .de,
    setsCell8_loCell .de, setsCell8_loCell .af, setsCell8_hiCell .hl, setsCell8_loCell .hl⟩

/-- Settles O22: the next state's RF is a write of X alone, and a pair view looks at its two cells
alone, of which X is at most one (R117). -/
theorem set8ChangesNoOtherCell : Obligations.Set8ChangesNoOtherCell := by
  intro r s
  have hcell (q : Reg8) (hq : q ≠ r) :
      (s.rf.set8 r s.input.wdata8).get8 q = s.rf.get8 q := RegFile.get8_set8_ne _ _ _ _ hq
  refine ⟨_, exec_set8_next r s, hcell, RegFile.getD_set8 _ r _ .sp, RegFile.getD_set8 _ r _ .pc,
    fun p hhi => ?_, fun p hlo => ?_, fun p hhi hlo => ?_⟩
  · simp [hcell (loCell p) (hhi ▸ (hiCell_ne_loCell p).symm)]
  · simp [hcell (hiCell p) (hlo ▸ hiCell_ne_loCell p)]
  · exact RegFile.getPair_set8_ne _ _ _ _ hhi.symm hlo.symm

/-- Settles O23: the answer and the cell are both the datum, and a read answers the cell (R118). -/
theorem set8AnswersItsOwnNewValue : Obligations.Set8AnswersItsOwnNewValue := by
  intro r s
  refine ⟨_, exec_set8_next r s, by simp, by simp, ?_⟩
  rw [exec_read8, readCell8_eq]
  simp [State.respond]

end Sys2Proof.Machine

namespace Sys2Proof.Machine

/-! ### Composition and decomposition (41_pair16_access R120 to R123) -/

theorem decompose_eq (v : Word) : decompose v = (Claims.upper v, Claims.lower v) :=
  Prod.ext (highByte_eq_extractLsb' v) (lowByte_eq_extractLsb' v)

@[simp] theorem upper_compose (hi lo : Byte) : Claims.upper (compose hi lo) = hi := by
  rw [compose_eq_cat]
  exact BitVec.extractLsb'_append_eq_left

@[simp] theorem lower_compose (hi lo : Byte) : Claims.lower (compose hi lo) = lo := by
  rw [compose_eq_cat]
  exact BitVec.extractLsb'_append_eq_right

/-- The two bytes of a word, side by side, are bits 15:0 of it, which is all of it. -/
theorem cat_upper_lower (v : Word) : Claims.cat (Claims.upper v) (Claims.lower v) = v :=
  (BitVec.extractLsb'_append_extractLsb'_eq_extractLsb' rfl).trans BitVec.extractLsb'_eq_self

theorem compose_decompose (v : Word) : compose (decompose v).1 (decompose v).2 = v := by
  rw [compose_eq_cat, decompose_eq, cat_upper_lower]

theorem decompose_compose (hi lo : Byte) : decompose (compose hi lo) = (hi, lo) := by
  rw [decompose_eq, upper_compose, lower_compose]

/-- Settles O26: the shift and the or are the definition of compose, and concatenation has its two
parts as its two byte fields. -/
theorem composeIsConcatenation : Obligations.ComposeIsConcatenation := fun hi lo =>
  ⟨rfl, compose_eq_cat hi lo, upper_compose hi lo, lower_compose hi lo⟩

/-- Settles O27: the shift and the mask are the definition of decompose, and each cuts out one byte
field. -/
theorem decomposeTakesBothBytes : Obligations.DecomposeTakesBothBytes := fun v =>
  ⟨rfl, decompose_eq v⟩

/-! ### Pair writes and the views of them (R132, R133) -/

theorem hiCell_injective {p q : Pair} (h : hiCell q = hiCell p) : q = p := by
  revert h
  cases p <;> cases q <;> decide

theorem loCell_injective {p q : Pair} (h : loCell q = loCell p) : q = p := by
  revert h
  cases p <;> cases q <;> decide

/-- No cell is the high half of one pair and the low half of another. -/
theorem hiCell_ne_loCell_of_any (p q : Pair) : hiCell p ≠ loCell q := by
  cases p <;> cases q <;> decide

theorem RegFile.get8_setPair_hi_eq_upper (rf : RegFile) (p : Pair) (v : Word) :
    (rf.setPair p v).get8 (hiCell p) = Claims.upper v :=
  (rf.get8_setPair_hi p v).trans (highByte_eq_extractLsb' v)

theorem RegFile.get8_setPair_lo_eq_lower (rf : RegFile) (p : Pair) (v : Word) :
    (rf.setPair p v).get8 (loCell p) = Claims.lower v :=
  (rf.get8_setPair_lo p v).trans (lowByte_eq_extractLsb' v)

theorem RegFile.getPair_eq_cat (rf : RegFile) (p : Pair) :
    rf.getPair p = Claims.cat (rf.get8 (hiCell p)) (rf.get8 (loCell p)) :=
  compose_eq_cat _ _

@[simp] theorem RegFile.getPair_setPair_same (rf : RegFile) (p : Pair) (v : Word) :
    (rf.setPair p v).getPair p = v := by
  rw [RegFile.getPair_eq_cat, RegFile.get8_setPair_hi_eq_upper, RegFile.get8_setPair_lo_eq_lower,
    cat_upper_lower]

/-- Two pairs have no cell in common, so a write of one does not show in the other. -/
theorem RegFile.getPair_setPair_ne (rf : RegFile) {p q : Pair} (v : Word) (h : q ≠ p) :
    (rf.setPair p v).getPair q = rf.getPair q := by
  have hhi : (rf.setPair p v).get8 (hiCell q) = rf.get8 (hiCell q) :=
    rf.get8_setPair_ne p v _ (fun he => h (hiCell_injective he)) (hiCell_ne_loCell_of_any q p)
  have hlo : (rf.setPair p v).get8 (loCell q) = rf.get8 (loCell q) :=
    rf.get8_setPair_ne p v _ (hiCell_ne_loCell_of_any p q).symm fun he => h (loCell_injective he)
  rw [RegFile.getPair, RegFile.getPair, hhi, hlo]

theorem RegFile.setPair_eq_set8_set8 (rf : RegFile) (p : Pair) (v : Word) :
    rf.setPair p v =
      (rf.set8 (hiCell p) (Claims.upper v)).set8 (loCell p) (Claims.lower v) := by
  rw [RegFile.setPair, decompose_eq]

@[simp] theorem RegFile.setPair_getPair_self (rf : RegFile) (p : Pair) :
    rf.setPair p (rf.getPair p) = rf := by
  rw [RegFile.setPair_eq_set8_set8, upper_getPair, lower_getPair, RegFile.set8_get8_self,
    RegFile.set8_get8_self]

theorem RegFile.getPair_set8_hiCell (rf : RegFile) (p : Pair) (x : Byte) :
    (rf.set8 (hiCell p) x).getPair p = Claims.cat x (Claims.lower (rf.getPair p)) := by
  rw [RegFile.getPair_eq_cat, RegFile.get8_set8_same, lower_getPair,
    RegFile.get8_set8_ne _ _ _ _ (hiCell_ne_loCell p).symm]

theorem RegFile.getPair_set8_loCell (rf : RegFile) (p : Pair) (x : Byte) :
    (rf.set8 (loCell p) x).getPair p = Claims.cat (Claims.upper (rf.getPair p)) x := by
  rw [RegFile.getPair_eq_cat, RegFile.get8_set8_same, upper_getPair,
    RegFile.get8_set8_ne _ _ _ _ (hiCell_ne_loCell p)]

/-! ### The pair commands (R122 to R133) -/

/-- READ_P by its whole next state, given what the pair view holds. -/
theorem exec_read16_next {p : Pair} {s : State} {v : Word} (h : s.rf.getPair p = v) :
    exec (Instr.read16 p) s = .next { s with result := .ok (.val16 v) } := by
  rw [exec_read16, readPair_eq, h]
  rfl

/-- READ_X by its whole next state, given what the cell holds. -/
theorem exec_read8_next {r : Reg8} {s : State} {x : Byte} (h : s.rf.get8 r = x) :
    exec (Instr.read8 r) s = .next { s with result := .ok (.val8 x) } := by
  rw [exec_read8, readCell8_eq, h]
  rfl

/-- SET_P by its whole next state: the two cells take the datum's bytes, and nothing is answered. -/
theorem exec_set16_next (p : Pair) (s : State) : exec (Instr.set16 p) s =
    .next ((s.withRf (s.rf.setPair p s.input.wdata16)).respond .none) :=
  (exec_set16 p s).trans (setPair_eq p s)

/-- Settles O28: when READ_P comes to the input, SET_P is still the latest write of either cell of
P, so the cells hold the two bytes of v, and composing them gives v (R122). A reserved word among the
steps between is a step like any other (R152). -/
theorem pairRoundTrip : Obligations.PairRoundTrip := by
  refine ⟨compose_decompose, ?_⟩
  rintro p x y mid rest s rfl hpend hset hmid hread
  obtain ⟨u, hrun⟩ := run_next (mid.length + 1) s
  obtain ⟨hrst, -, -⟩ := legalCommand_eq_some_iff.mp hset
  have hhi : u.rf.get8 (hiCell p) = highByte s.input.wdata16 :=
    (records_leaves8 _).run_of_last_write hpend (leaves8_set16_hiCell hrst p hset)
      (fun m hm => leaves8_eq_none_of_writes8 (hmid m hm).1) hrun
  have hlo : u.rf.get8 (loCell p) = lowByte s.input.wdata16 :=
    (records_leaves8 _).run_of_last_write hpend (leaves8_set16_loCell hrst p hset)
      (fun m hm => leaves8_eq_none_of_writes8 (hmid m hm).2) hrun
  have hpair : u.rf.getPair p = s.input.wdata16 := by
    rw [RegFile.getPair, hhi, hlo]
    exact compose_decompose _
  have hinput : u.input = y := run_input_of_pending hpend hrun
  have hstep := step_of_legalCommand (hinput ▸ hread) (exec_read16_next hpair)
  exact ⟨_, run_succ_of_run hrun hstep, by simp⟩

/-- Settles O29: composition is a two-sided inverse of decomposition, and SET_P leaves in each cell
its byte of the datum (R123). -/
theorem byteRoundTrip : Obligations.ByteRoundTrip := by
  refine ⟨decompose_compose, ⟨?_, ?_⟩, fun p s => ?_⟩
  · intro v w h
    rw [← compose_decompose v, h, compose_decompose]
  · exact fun ⟨hi, lo⟩ => ⟨compose hi lo, decompose_compose hi lo⟩
  · exact ⟨_, exec_set16_next p s, exec_read8_next (RegFile.get8_setPair_hi_eq_upper _ p _),
      exec_read8_next (RegFile.get8_setPair_lo_eq_lower _ p _)⟩

/-- Settles O30: the next state's RF is a write of the two cells of P alone, and no other pair has
either of them (R132). -/
theorem setPairChangesNoOtherCell : Obligations.SetPairChangesNoOtherCell := fun p s =>
  ⟨_, exec_set16_next p s, RegFile.get8_setPair_hi_eq_upper _ p _,
    RegFile.get8_setPair_lo_eq_lower _ p _, fun q => RegFile.get8_setPair_ne _ p _ q,
    RegFile.getD_setPair _ p _ .sp, RegFile.getD_setPair _ p _ .pc,
    fun _ hq => RegFile.getPair_setPair_ne _ _ hq⟩

/-- Settles O31: the pair's value is its two cells side by side, so every read answers from the same
two bytes and every write shows in both views (R133). -/
theorem pairAndByteViewsAgree : Obligations.PairAndByteViewsAgree := by
  intro p s
  refine ⟨exec_read16_next (s.rf.getPair_eq_cat p), exec_read8_next (upper_getPair s.rf p).symm,
    exec_read8_next (lower_getPair s.rf p).symm, ?_, ?_, ?_⟩
  · exact ⟨_, exec_set8_next _ s, RegFile.getPair_set8_hiCell _ p _⟩
  · exact ⟨_, exec_set8_next _ s, RegFile.getPair_set8_loCell _ p _⟩
  · exact ⟨_, exec_set16_next p s, RegFile.getPair_setPair_same _ p _⟩

/-- With the high byte zero the value is the low byte's, below 2^8. -/
theorem cat_zero_lt (lo : Byte) : Claims.cat 0x00#8 lo < 0x0100#16 := by
  have hvalue : (Claims.cat 0x00#8 lo).toNat = lo.toNat :=
    (BitVec.toNat_append 0x00#8 lo).trans (by simp)
  rw [BitVec.lt_def, hvalue]
  exact lo.isLt

/-- The pair READ16 rules of any pair (R124, R126, R128, R130). -/
theorem readsPair (p : Pair) :
    Claims.ReadsPair (encode (Instr.read16 p)) (Instr.read16 p) (Instr.set16 p)
      (fun rf => rf.get8 (hiCell p)) (fun rf => rf.get8 (loCell p)) := by
  refine ⟨decode_encode _, rfl, fun s => exec_read16_next (s.rf.getPair_eq_cat p),
    fun s t hrst hstep => ?_, fun s (hhi : s.rf.get8 (hiCell p) = 0x00#8) => ?_,
    fun s hhi hlo => ?_, fun s => ?_⟩
  · cases (step_of_reset hrst).symm.trans hstep
    exact exec_read16_next (by simp)
  · refine ⟨_, exec_read16_next rfl, ?_⟩
    rw [RegFile.getPair_eq_cat, hhi]
    exact cat_zero_lt _
  · exact exec_read16_next ((s.rf.getPair_eq_cat p).trans (congrArg₂ Claims.cat hhi hlo))
  · exact ⟨_, exec_set16_next p s, exec_read16_next (by simp)⟩

/-- Settles O18: each of the four pairs reads by the one rule, from its own two cells. -/
theorem readPairAnswersHighThenLow : Obligations.ReadPairAnswersHighThenLow :=
  ⟨readsPair .af, readsPair .bc, readsPair .de, readsPair .hl⟩

/-- The pair SET16 rules of any pair (R125, R127, R129, R131). -/
theorem setsPair (p : Pair) :
    Claims.SetsPair (encode (Instr.set16 p)) (Instr.set16 p)
      (fun rf => rf.get8 (hiCell p)) (fun rf => rf.get8 (loCell p))
      (fun rf x y => (rf.set8 (hiCell p) x).set8 (loCell p) y) := by
  refine ⟨decode_encode _, rfl, fun s => ?_, fun s hdatum => ?_⟩
  · rw [exec_set16_next, RegFile.setPair_eq_set8_set8]
    rfl
  · rw [exec_set16_next, hdatum, ← RegFile.getPair_eq_cat, RegFile.setPair_getPair_self]
    rfl

/-- Settles O19: each of the four pairs is set by the one rule, in its own two cells. -/
theorem setPairStoresBothHalves : Obligations.SetPairStoresBothHalves :=
  ⟨setsPair .af, setsPair .bc, setsPair .de, setsPair .hl⟩

end Sys2Proof.Machine

namespace Sys2Proof.Machine

/-! ### The direct commands, SP and PC (42_direct16_access R140 to R145) -/

/-- READ_SP or READ_PC by its whole next state, given what the cell holds. -/
theorem exec_readDirect_next {d : Direct} {s : State} {v : Word} (h : s.rf.getD d = v) :
    exec (Instr.readDirect d) s = .next { s with result := .ok (.val16 v) } := by
  rw [exec_readDirect, readDirect_eq, h]
  rfl

/-- SET_SP or SET_PC by its whole next state: the cell takes the datum, and nothing is answered. -/
theorem exec_setDirect_next (d : Direct) (s : State) : exec (Instr.setDirect d) s =
    .next ((s.withRf (s.rf.setD d s.input.wdata16)).respond .none) :=
  (exec_setDirect d s).trans (setDirect_eq d s)

/-- A step that R37 does not list as a writer of SP or PC leaves nothing in it. -/
theorem leavesD_eq_none_of_writesD {x : StepInput} {d : Direct} (h : x.writesD d = false) :
    x.leavesD d = none := by
  obtain ⟨hrst, hwriters⟩ := Bool.or_eq_false_iff.mp h
  refine leavesD_eq_none hrst d fun i hi hcmd => ?_
  simp [hcmd, hi] at hwriters

/-- Settles O25: when the read comes to the input, the set command is still the latest write of the
cell, whatever the steps between did to the others (a reserved word among them is a step like any
other: R152). -/
theorem readDirectAnswersTheValueLastSet : Obligations.ReadDirectAnswersTheValueLastSet := by
  rintro d x y mid rest s rfl hpend hset hmid hread
  obtain ⟨u, hrun⟩ := run_next (mid.length + 1) s
  obtain ⟨hrst, -, -⟩ := legalCommand_eq_some_iff.mp hset
  have hcell : u.rf.getD d = s.input.wdata16 :=
    (records_leavesD d).run_of_last_write hpend (leavesD_setDirect hrst d hset)
      (fun m hm => leavesD_eq_none_of_writesD (hmid m hm)) hrun
  have hinput : u.input = y := run_input_of_pending hpend hrun
  have hstep := step_of_legalCommand (hinput ▸ hread) (exec_readDirect_next hcell)
  exact ⟨_, run_succ_of_run hrun hstep, by simp⟩

@[simp] theorem RegFile.getPair_setD (rf : RegFile) (d : Direct) (v : Word) (p : Pair) :
    (rf.setD d v).getPair p = rf.getPair p := by
  simp [RegFile.getPair]

/-- Settles O32: a direct write is a write of its one cell, and an 8-bit or pair write is a write of
8-bit cells alone (R144). -/
theorem directCellsShareNothing : Obligations.DirectCellsShareNothing := by
  refine ⟨fun s => ?_, fun s => ?_, fun r s => ?_, fun p s => ?_⟩
  · exact ⟨_, exec_setDirect_next .sp s, rfl, rfl, RegFile.get8_setD _ .sp _,
      RegFile.getPair_setD _ .sp _⟩
  · exact ⟨_, exec_setDirect_next .pc s, rfl, rfl, RegFile.get8_setD _ .pc _,
      RegFile.getPair_setD _ .pc _⟩
  · exact ⟨_, exec_set8_next r s, RegFile.getD_set8 _ r _ .sp, RegFile.getD_set8 _ r _ .pc⟩
  · exact ⟨_, exec_set16_next p s, RegFile.getD_setPair _ p _ .sp, RegFile.getD_setPair _ p _ .pc⟩

/-- The one command that R37 lists as a writer of SP, or of PC, is the cell's own set command. -/
theorem step_keeps_getD {s t : State} (d : Direct) (hstep : step s = .next t)
    (hrst : s.input.rst = false) (hcmd : s.input.legalCommand ≠ some (.setDirect d)) :
    t.rf.getD d = s.rf.getD d := by
  have hnone : s.input.leavesD d = none :=
    leavesD_eq_none hrst d (by simpa [writersD_eq] using hcmd)
  rw [(records_leavesD d).step hstep, hnone, Option.getD_none]

/-- Settles O33: the frame of a step with no reset, at SP and at PC (R145). -/
theorem nothingElseMovesSpOrPc : Obligations.NothingElseMovesSpOrPc := fun _ _ hstep hrst =>
  ⟨step_keeps_getD .sp hstep hrst, step_keeps_getD .pc hstep hrst⟩

/-- The direct READ16 rules of either cell (R140, R142). -/
theorem readsDirect (d : Direct) :
    Claims.ReadsDirect (encode (Instr.readDirect d)) (Instr.readDirect d) (Instr.setDirect d)
      (fun rf => rf.getD d) := by
  refine ⟨decode_encode _, rfl, fun s => exec_readDirect_next rfl, fun s t hrst hstep => ?_,
    fun s => ?_, fun s => ?_, fun r s => ?_⟩
  · cases (step_of_reset hrst).symm.trans hstep
    exact exec_readDirect_next (by simp)
  · exact ⟨_, exec_readDirect d s, exec_readDirect d _⟩
  · exact ⟨_, exec_setDirect_next d s, exec_readDirect_next (by simp)⟩
  · exact ⟨_, exec_set8_next r s, exec_readDirect_next (by simp)⟩

/-- Settles O20: SP and PC read by the one rule, each from its own cell. -/
theorem readDirectAnswersItsCell : Obligations.ReadDirectAnswersItsCell :=
  ⟨readsDirect .sp, readsDirect .pc⟩

@[simp] theorem RegFile.setD_getD_self (rf : RegFile) (d : Direct) :
    rf.setD d (rf.getD d) = rf := by
  cases d <;> rfl

/-- The direct SET16 rules of either cell (R141, R143). -/
theorem setsDirect (d : Direct) :
    Claims.SetsDirect (encode (Instr.setDirect d)) (Instr.setDirect d) (fun rf => rf.getD d)
      (fun rf v => rf.setD d v) := by
  refine ⟨decode_encode _, rfl, exec_setDirect_next d, fun s hdatum => ?_⟩
  rw [exec_setDirect_next, hdatum, RegFile.setD_getD_self]
  rfl

/-- Settles O21: SP and PC are set by the one rule, each in its own cell. -/
theorem setDirectStoresItsDatum : Obligations.SetDirectStoresItsDatum :=
  ⟨setsDirect .sp, setsDirect .pc⟩

end Sys2Proof.Machine

namespace Sys2Proof

/-! ### Reserved words as the decoder sees them (30_encoding R79, R81) -/

theorem decode_eq_illegal_iff_reserved (cmd : Cmd) :
    decode cmd = .illegal cmd ↔ Cmd.reserved cmd = true := by
  rw [exactlyTheReservedWordsAreIllegal.1 cmd]
  simp [Cmd.reserved, or_assoc]

/-- The decoder answers Illegal with no other word than the one it was given. -/
theorem decode_eq_illegal_or_legal (cmd : Cmd) :
    decode cmd = .illegal cmd ∨ ∃ i, decode cmd = .legal i := by
  obtain hc | hc | hc | hc := class_cases (cmdClass cmd)
  · exact .inr ⟨_, decode_of_class_00 hc⟩
  · cases hp : pairOfSel (cmdSel cmd) with
    | none => exact .inl (decode_of_no_pair hc hp)
    | some p => exact .inr ⟨_, decode_of_pair hc hp⟩
  · cases hd : directOfSel (cmdSel cmd) with
    | none => exact .inl (decode_of_no_direct hc hd)
    | some d => exact .inr ⟨_, decode_of_direct hc hd⟩
  · exact .inl (decode_of_class_11 hc)

theorem decode_of_reserved {cmd : Cmd} (h : Cmd.reserved cmd = true) :
    decode cmd = .illegal cmd :=
  (decode_eq_illegal_iff_reserved cmd).mpr h

theorem decode_of_not_reserved {cmd : Cmd} (h : Cmd.reserved cmd = false) :
    ∃ i, decode cmd = .legal i := by
  refine (decode_eq_illegal_or_legal cmd).resolve_left fun hillegal => ?_
  exact absurd ((decode_eq_illegal_iff_reserved cmd).mp hillegal) (by simp [h])

theorem isIllegal_iff {x : StepInput} : x.isIllegal = true ↔
    x.rst = false ∧ x.cmdValid = true ∧ Cmd.reserved x.cmd = true := by
  simp [StepInput.isIllegal, and_assoc]

@[simp] theorem isIllegal_idle : StepInput.idle.isIllegal = false := rfl

end Sys2Proof

namespace Sys2Proof.Machine

/-! ### A step, by whether it presents a reserved word (60_exceptions R150 to R152) -/

theorem step_of_isIllegal {s : State} (h : s.input.isIllegal = true) :
    step s = .next (s.raiseIllegalCommand s.input.cmd).advance := by
  obtain ⟨hrst, hvalid, hreserved⟩ := isIllegal_iff.mp h
  exact step_of_illegal hrst hvalid (decode_of_reserved hreserved)

theorem step_result_of_isIllegal {s t : State} (hstep : step s = .next t)
    (h : s.input.isIllegal = true) : t.result = .fault (.illegalCommand s.input.cmd) := by
  cases hstep.symm.trans (step_of_isIllegal h)
  simp

/-- A step that presents no reserved word ends well, with cells and a response that depend on the
cells and on the step's inputs alone: not on the result of the step before it, nor on the mark. -/
theorem step_of_alike {s s' : State} (hrf : s.rf = s'.rf) (hinput : s.input = s'.input)
    (h : s.input.isIllegal = false) :
    ∃ rf r, step s = .next ((s.withRf rf).respond r).advance ∧
      step s' = .next ((s'.withRf rf).respond r).advance := by
  cases hrst : s.input.rst with
  | true => exact ⟨RegFile.reset, .none, step_of_reset hrst, step_of_reset (hinput ▸ hrst)⟩
  | false =>
    cases hvalid : s.input.cmdValid with
    | false =>
      exact ⟨s.rf, .none, step_of_idle hrst hvalid,
        hrf ▸ step_of_idle (hinput ▸ hrst) (hinput ▸ hvalid)⟩
    | true =>
      have hreserved : Cmd.reserved s.input.cmd = false := by
        simpa [StepInput.isIllegal, hrst, hvalid] using h
      obtain ⟨i, hdec⟩ := decode_of_not_reserved hreserved
      obtain ⟨rf, r, hexec, hexec'⟩ :=
        exec_of_alike i hrf (fun _ => by rw [hinput]) (fun _ => by rw [hinput])
      exact ⟨rf, r, step_of_legal hrst hvalid hdec hexec,
        step_of_legal (hinput ▸ hrst) (hinput ▸ hvalid) (hinput ▸ hdec) hexec'⟩

/-- A step raises IllegalCommand with the word it presents, where that is a reserved word, and
answers a response anywhere else. -/
theorem step_fault_cases {s t : State} (hstep : step s = .next t) :
    (s.input.isIllegal = true ∧ t = (s.raiseIllegalCommand s.input.cmd).advance) ∨
    (s.input.isIllegal = false ∧ ∃ rf r, t = ((s.withRf rf).respond r).advance) := by
  cases h : s.input.isIllegal with
  | true => exact .inl ⟨rfl, Host.Outcome.next.inj (hstep.symm.trans (step_of_isIllegal h))⟩
  | false =>
    obtain ⟨rf, r, hnext, -⟩ := step_of_alike rfl rfl h
    exact .inr ⟨rfl, rf, r, Host.Outcome.next.inj (hstep.symm.trans hnext)⟩

/-! ### The fault mark (R152) -/

theorem step_faultMark {s t : State} (hstep : step s = .next t) :
    t.faultMark = (s.faultMark || s.input.isIllegal) := by
  obtain ⟨h, rfl⟩ | ⟨h, rf, r, rfl⟩ := step_fault_cases hstep <;> simp [h]

/-- Past the owner's list a run samples idle steps, which present no reserved word. -/
theorem any_isIllegal_sampled_succ {s u : State} (n : Nat) (hpend : u.pending = s.pending) :
    (sampled (n + 1) s).any StepInput.isIllegal =
      (s.input.isIllegal || (sampled n u.advance).any StepInput.isIllegal) := by
  cases hs : s.pending with
  | nil =>
    have hidle : (sampled n u.advance).any StepInput.isIllegal = false := by
      rw [sampled, u.advance_input_nil (hpend.trans hs), u.advance_pending_nil (hpend.trans hs)]
      cases n <;> simp
    rw [hidle, Bool.or_false]
    simp [sampled, hs]
  | cons x rest =>
    simp [sampled, hs, u.advance_input_cons x rest (hpend.trans hs),
      u.advance_pending_cons x rest (hpend.trans hs)]

/-- Settles O39, by induction on the number of steps: each step adds to the mark whether it presents
a reserved word, and nothing takes the mark back. -/
theorem faultMarkRecordsEveryFault : Obligations.FaultMarkRecordsEveryFault := by
  intro n s
  induction n generalizing s with
  | zero => exact ⟨s, run_zero s, by simp [sampled]⟩
  | succ n ih =>
    obtain ⟨u, hstep, -, hpend⟩ := step_next s
    obtain ⟨t, hrun, hmark⟩ := ih u.advance
    refine ⟨t, (run_succ_of_step n hstep).trans hrun, ?_⟩
    rw [hmark, step_faultMark hstep, any_isIllegal_sampled_succ n hpend, Bool.or_assoc]

/-- Settles O40: only the step that presents a reserved word leaves a fault, its own, and that step
sets the mark. -/
theorem everyStepRecordsItsFault : Obligations.EveryStepRecordsItsFault := by
  intro s t hstep
  refine ⟨fun cmd hresult => ?_, fun hmark => by simp [step_faultMark hstep, hmark]⟩
  obtain ⟨h, rfl⟩ | ⟨-, rf, r, rfl⟩ := step_fault_cases hstep
  · obtain ⟨-, -, hreserved⟩ := isIllegal_iff.mp h
    obtain rfl : s.input.cmd = cmd := by simpa using hresult
    exact ⟨by simp, hreserved⟩
  · simp at hresult

/-! ### An owner that presents no reserved word (R150, R151) -/

/-- The steps still to come after an advance are the owner's, or the idle step past the end of the
list. -/
theorem mem_steps_advance {u : State} {x : StepInput}
    (hx : x ∈ u.advance.input :: u.advance.pending) : x = StepInput.idle ∨ x ∈ u.pending := by
  cases hs : u.pending with
  | nil =>
    rw [u.advance_input_nil hs, u.advance_pending_nil hs] at hx
    exact .inl (List.mem_singleton.mp hx)
  | cons y rest =>
    rw [u.advance_input_cons y rest hs, u.advance_pending_cons y rest hs] at hx
    exact .inr hx

/-- Settles O42: a step without a reserved word ends well, and the steps after it are steps the
owner had listed before, or the idle step where the list has ended (log 3). -/
theorem cleanOwnerNeverFaults : Obligations.CleanOwnerNeverFaults := by
  rintro s t ⟨hmark, hsteps⟩ hstep
  obtain ⟨hinput, hpending⟩ := List.forall_mem_cons.mp hsteps
  have hmark' : t.faultMark = false := by rw [step_faultMark hstep, hmark, hinput, Bool.or_false]
  obtain ⟨h, -⟩ | ⟨-, rf, r, rfl⟩ := step_fault_cases hstep
  · exact absurd (hinput.symm.trans h) Bool.false_ne_true
  · refine ⟨⟨hmark', fun x hx => ?_⟩, by rw [State.good, hmark', Bool.not_false], r, by simp⟩
    obtain rfl | hmem := mem_steps_advance hx
    · exact isIllegal_idle
    · exact hpending x hmem

/-! ### IllegalCommand (R151, R152, R155 to R157) -/

/-- Settles O10: the step is raiseIllegalCommand, and its output signals are those of a fault. -/
theorem reservedWordRaisesIllegalCommand : Obligations.ReservedWordRaisesIllegalCommand := by
  intro s hrst hvalid hreserved
  have hillegal : s.input.isIllegal = true := isIllegal_iff.mpr ⟨hrst, hvalid, hreserved⟩
  have hstep := step_of_isIllegal hillegal
  have hresult := step_result_of_isIllegal hstep hillegal
  obtain ⟨h8, h16, hcmd⟩ := outputs_of_fault hresult
  refine ⟨_, hstep, by simp, hresult, rfl, ?_, ?_, ?_, hcmd, by simp, by simp [State.good]⟩
  · rw [State.rvalid8, h8, Option.isSome_none]
  · rw [State.rvalid16, h16, Option.isSome_none]
  · rw [State.faultOut, hcmd, Option.isSome_some]

/-- What a step leaves in the cells and answers depends on the cells and the step's inputs alone. -/
theorem step_rf_result_of_alike {s s' t t' : State} (hrf : s.rf = s'.rf)
    (hinput : s.input = s'.input) (hstep : step s = .next t) (hstep' : step s' = .next t') :
    t.rf = t'.rf ∧ t.result = t'.result := by
  cases h : s.input.isIllegal with
  | true =>
    cases hstep.symm.trans (step_of_isIllegal h)
    cases hstep'.symm.trans (step_of_isIllegal (hinput ▸ h))
    simp [hrf, hinput]
  | false =>
    obtain ⟨rf, r, hnext, hnext'⟩ := step_of_alike hrf hinput h
    cases hstep.symm.trans hnext
    cases hstep'.symm.trans hnext'
    simp

/-- Settles O11: a faulting step changes no cell, and its result and the mark are not looked at by
the next step (R152). -/
theorem stepAfterAFaultGoesAsUsual : Obligations.StepAfterAFaultGoesAsUsual := by
  intro s x rest hrst hvalid hreserved hpend
  have hillegal : s.input.isIllegal = true := isIllegal_iff.mpr ⟨hrst, hvalid, hreserved⟩
  have hinput : (s.raiseIllegalCommand s.input.cmd).advance.input = x :=
    State.advance_input_cons _ x rest hpend
  obtain ⟨u, hnext, -⟩ := step_next (s.raiseIllegalCommand s.input.cmd).advance
  obtain ⟨u', hnext', -⟩ := step_next { s with input := x, pending := rest }
  obtain ⟨hrf, hresult⟩ := step_rf_result_of_alike (by simp) hinput hnext hnext'
  refine ⟨_, _, _, step_of_isIllegal hillegal, hnext, by simp, hnext', hrf, hresult, ?_,
    fun hx => ?_⟩
  · rw [step_faultMark hnext, State.advance_faultMark, State.raiseIllegalCommand_faultMark,
      Bool.true_or]
  · rw [step_result_of_isIllegal hnext (hinput ▸ hx), hinput]

/-- Settles O12: one branch of the step for each branch of the chain (R155). -/
theorem resetThenIllegalThenLegal : Obligations.ResetThenIllegalThenLegal := by
  intro s hvalid
  cases hrst : s.input.rst with
  | true => exact ⟨_, step_of_reset hrst, by simp⟩
  | false =>
    cases hreserved : Cmd.reserved s.input.cmd with
    | true => exact ⟨_, step_of_illegal hrst hvalid (decode_of_reserved hreserved), by simp⟩
    | false =>
      obtain ⟨i, hdec⟩ := decode_of_not_reserved hreserved
      obtain ⟨rf, r, hexec⟩ := exec_shape i s
      refine ⟨_, step_of_legal hrst hvalid hdec hexec, ?_⟩
      simp [hdec, hexec]

/-! ### Legal commands (R150; D9) -/

theorem responsePort_read8 (r : Reg8) : (Instr.read8 r).responsePort = some .p8 := by
  cases r <;> rfl

theorem responsePort_set8 (r : Reg8) : (Instr.set8 r).responsePort = some .p8 := by
  cases r <;> rfl

theorem responsePort_read16 (p : Pair) : (Instr.read16 p).responsePort = some .p16 := by
  cases p <;> rfl

theorem responsePort_set16 (p : Pair) : (Instr.set16 p).responsePort = none := by
  cases p <;> rfl

theorem responsePort_readDirect (d : Direct) :
    (Instr.readDirect d).responsePort = some .p16 := by
  cases d <;> rfl

theorem responsePort_setDirect (d : Direct) : (Instr.setDirect d).responsePort = none := by
  cases d <;> rfl

/-- Settles O13, by kind of command: the response exec gives is of the kind's own port. -/
theorem noLegalCommandRaises : Obligations.NoLegalCommandRaises := by
  intro i s
  obtain ⟨r, rfl⟩ | ⟨r, rfl⟩ | ⟨p, rfl⟩ | ⟨p, rfl⟩ | ⟨d, rfl⟩ | ⟨d, rfl⟩ := instr_kind i
  · exact ⟨_, _, exec_read8 r s, rfl, (responsePort_read8 r).symm, rfl⟩
  · exact ⟨_, _, exec_set8_next r s, rfl, (responsePort_set8 r).symm, rfl⟩
  · exact ⟨_, _, exec_read16 p s, rfl, (responsePort_read16 p).symm, rfl⟩
  · exact ⟨_, _, exec_set16_next p s, rfl, (responsePort_set16 p).symm, rfl⟩
  · exact ⟨_, _, exec_readDirect d s, rfl, (responsePort_readDirect d).symm, rfl⟩
  · exact ⟨_, _, exec_setDirect_next d s, rfl, (responsePort_setDirect d).symm, rfl⟩

end Sys2Proof.Machine

namespace Sys2Proof.Machine

/-! ### Reset (70_reset_and_hazards R170 to R172) -/

theorem step_rf_of_reset {s t : State} (hrst : s.input.rst = true) (hstep : step s = .next t) :
    t.rf = RegFile.reset := by
  cases (step_of_reset hrst).symm.trans hstep
  rw [State.advance_rf, State.resetCells_rf]

/-- Settles O7: a reset step leaves the register file of the state after reset, all of whose cells and
pair views are zero (R38), and it does not touch the fault mark (R152). -/
theorem resetStepZeroesEveryCell : Obligations.ResetStepZeroesEveryCell := by
  intro s hrst
  have hstep := step_of_reset hrst
  obtain ⟨ha, hb, hc, hd, he, hf, hh, hl, hsp, hpc, hpair, -⟩ := resetStateIsAllZero
  refine ⟨_, hstep, ?_⟩
  rw [step_rf_of_reset hrst hstep]
  exact ⟨ha, hb, hc, hd, he, hf, hh, hl, hsp, hpc, hpair, by simp, by simp⟩

theorem State.inv_of_result_ok {s : State} {r : Response} (h : s.result = .ok r) : s.Inv := by
  intro cmd hfault
  cases h.symm.trans hfault

/-- Settles O41: the result at reset is no fault (R172), and the one step at the input is the idle
step, which presents no reserved word (log 6). -/
theorem resetHasNoFaultRecorded : Obligations.ResetHasNoFaultRecorded := by
  have hclean : State.reset.Clean := ⟨rfl, List.forall_mem_singleton.mpr isIllegal_idle⟩
  exact ⟨State.inv_of_result_ok rfl, hclean, rfl⟩

end Sys2Proof.Machine
